-- ==== Sys2Proof/Syntax.lean ====
section
/-! DEFINITION. The twelve commands of the opcode table (R85), with their operand fields as numbers (R86: every
field is an unsigned bit field). Nothing here gives a meaning. -/

namespace Sys2Proof

/-- A command of the engine: one constructor for each row of the opcode table (R85). `sym` and `color` are symbol
codes (0 to 15 in an encoding), `pos` a band position (0 to 7), `cnt` a band count (0 to 7); `Instr.WellFormed` says
which operands an encoding can hold. -/
inductive Instr where
  /-- NOP, R230. -/
  | nop
  /-- CONSTRUCT, R141. -/
  | construct
  /-- DETERMINE, R190. -/
  | determine
  /-- WITH_COLOR, R221. -/
  | withColor (color pos : Nat)
  /-- NORMALIZE, R186. -/
  | normalize
  /-- LUT_DIGIT, R120. -/
  | lutDigit (sym : Nat)
  /-- LUT_DIGEXP, R121. -/
  | lutDigexp (sym : Nat)
  /-- LUT_TOL, R122. -/
  | lutTol (sym : Nat)
  /-- LUT_TCR, R123. -/
  | lutTcr (sym : Nat)
  /-- LUT_TOLINV, R124. -/
  | lutTolinv
  /-- LUT_TCRINV, R125. -/
  | lutTcrinv
  /-- LUT_MATRIX, R126. -/
  | lutMatrix (sym pos cnt : Nat)
  deriving DecidableEq, Repr

end Sys2Proof
end

