-- ==== Sys2Proof/WellFormed.lean ====
section
/-! DEFINITION. Which commands have an encoding: each operand fits its field (R82, R83, R84, R86; R90: "An operand
out of its field's range is an assembly error"). A value a field can hold is always well formed, even when no symbol,
position or count has that number: R86 makes those semantic cases of the command. -/

namespace Sys2Proof

/-- SYM and COLOR are 4-bit fields, 0 to 15 (R82, R83, R84). -/
def symFits (sym : Nat) : Bool := decide (sym < 16)

/-- POS is a 3-bit field, 0 to 7 (R83, R84). -/
def posFits (pos : Nat) : Bool := decide (pos < 8)

/-- CNT is a 3-bit field, 0 to 7 (R84). -/
def cntFits (cnt : Nat) : Bool := decide (cnt < 8)

/-- Every operand of the command fits its field. -/
def Instr.WellFormed (i : Instr) : Bool :=
  match i with
  | .nop => true
  | .construct => true
  | .determine => true
  | .withColor color pos => symFits color && posFits pos
  | .normalize => true
  | .lutDigit sym => symFits sym
  | .lutDigexp sym => symFits sym
  | .lutTol sym => symFits sym
  | .lutTcr sym => symFits sym
  | .lutTolinv => true
  | .lutTcrinv => true
  | .lutMatrix sym pos cnt => symFits sym && posFits pos && cntFits cnt

end Sys2Proof
end

