-- ==== Sys2Proof/Word.lean ====
section
/-! DEFINITION. The word types of the engine: the 32-bit data word of every register and command (R7 `W_DATA`,
R80), the 4-bit symbol code (R27) and the 5-bit word address of the register port (R7 `W_ADDR`, R60). -/

namespace Sys2Proof

/-- A register, a bus datum or a command word (R7 `W_DATA` = 32, R80). -/
abbrev Word := BitVec 32

/-- A symbol code as a register field holds it (R27): 0 to 12 name the 13 symbols, 13 to 15 are non-symbols. -/
abbrev Code := BitVec 4

/-- A word address of the register port (R7 `W_ADDR` = 5, R60). -/
abbrev Addr := BitVec 5

end Sys2Proof
end

