-- ==== Sys2Proof/Decode.lean ====
section
/-! DEFINITION. The decoder of R85, total on every 32-bit word and rejecting by name (R87), and the encoder, written
from the assembly table of R90. There is no byte order to decide: a command is one whole word of the register port
(R65, R73, R80). -/

namespace Sys2Proof

/-- The field `w[hi:lo]`, read as an unsigned number (R8, R86). -/
def field (hi lo : Nat) (w : Word) : Nat := (w.extractLsb hi lo).toNat

/-- OPCODE, bits [7:0] of every format (R80). -/
def opcodeField (w : Word) : Nat := field 7 0 w

/-- SYM or COLOR, bits [11:8] (R86). -/
def symField (w : Word) : Nat := field 11 8 w

/-- POS, bits [14:12] (R86). -/
def posField (w : Word) : Nat := field 14 12 w

/-- CNT, bits [18:16] (R86). -/
def cntField (w : Word) : Nat := field 18 16 w

/-- One row of the opcode table (R85): a word `w` is this row's command when `w AND mask = pattern`. -/
structure OpRow where
  mnemonic : String
  pattern : Word
  mask : Word
  build : Word → Instr

/-- Mask of format N: every bit is fixed (R81). -/
def maskN : Word := 0xFFFFFFFF#32

/-- Mask of format S: all but SYM is fixed (R82). -/
def maskS : Word := 0xFFFFF0FF#32

/-- Mask of format W: all but COLOR and POS is fixed (R83). -/
def maskW : Word := 0xFFFF80FF#32

/-- Mask of format M: all but SYM, POS and CNT is fixed (R84). -/
def maskM : Word := 0xFFF880FF#32

/-- The opcode table of R85, row by row. -/
def opTable : List OpRow :=
  [ ⟨"NOP", 0x00000000#32, maskN, fun _ => .nop⟩,
    ⟨"CONSTRUCT", 0x00000001#32, maskN, fun _ => .construct⟩,
    ⟨"DETERMINE", 0x00000002#32, maskN, fun _ => .determine⟩,
    ⟨"WITH_COLOR", 0x00000003#32, maskW, fun w => .withColor (symField w) (posField w)⟩,
    ⟨"NORMALIZE", 0x00000004#32, maskN, fun _ => .normalize⟩,
    ⟨"LUT_DIGIT", 0x00000010#32, maskS, fun w => .lutDigit (symField w)⟩,
    ⟨"LUT_DIGEXP", 0x00000011#32, maskS, fun w => .lutDigexp (symField w)⟩,
    ⟨"LUT_TOL", 0x00000012#32, maskS, fun w => .lutTol (symField w)⟩,
    ⟨"LUT_TCR", 0x00000013#32, maskS, fun w => .lutTcr (symField w)⟩,
    ⟨"LUT_TOLINV", 0x00000014#32, maskN, fun _ => .lutTolinv⟩,
    ⟨"LUT_TCRINV", 0x00000015#32, maskN, fun _ => .lutTcrinv⟩,
    ⟨"LUT_MATRIX", 0x00000016#32, maskM,
      fun w => .lutMatrix (symField w) (posField w) (cntField w)⟩ ]

/-- The word matches the row (R85). -/
def OpRow.matchesWord (row : OpRow) (w : Word) : Bool := w &&& row.mask == row.pattern

/-- Why a word is illegal: the two kinds of R87. -/
inductive DecodeError where
  /-- Kind (a): an opcode that is not in the table (R87, R88). -/
  | unlistedOpcode (opcode : Nat)
  /-- Kind (b): a listed opcode with a 1 in a must-be-zero bit of its format (R87, R88). -/
  | mustBeZero (opcode : Nat)
  deriving DecidableEq, Repr

/-- The opcodes of the table of R85; every other opcode is reserved (R88). -/
def opcodeListed (op : Nat) : Bool := op ≤ 4 || (0x10 ≤ op && op ≤ 0x16)

/-- R85 `decode`: the command of the first (and only) row that matches, or the kind of R87 the word is. -/
def decode (w : Word) : Except DecodeError Instr :=
  match opTable.find? (fun row => row.matchesWord w) with
  | some row => .ok (row.build w)
  | none =>
    if opcodeListed (opcodeField w) then .error (.mustBeZero (opcodeField w))
    else .error (.unlistedOpcode (opcodeField w))

/-- The command word of a command, as R90 assembles it. -/
def encode (i : Instr) : Word :=
  match i with
  | .nop => 0x00000000#32
  | .construct => 0x00000001#32
  | .determine => 0x00000002#32
  | .withColor color pos => BitVec.ofNat 32 (0x03 + (color <<< 8) + (pos <<< 12))
  | .normalize => 0x00000004#32
  | .lutDigit sym => BitVec.ofNat 32 (0x10 + (sym <<< 8))
  | .lutDigexp sym => BitVec.ofNat 32 (0x11 + (sym <<< 8))
  | .lutTol sym => BitVec.ofNat 32 (0x12 + (sym <<< 8))
  | .lutTcr sym => BitVec.ofNat 32 (0x13 + (sym <<< 8))
  | .lutTolinv => 0x00000014#32
  | .lutTcrinv => 0x00000015#32
  | .lutMatrix sym pos cnt =>
    BitVec.ofNat 32 (0x16 + (sym <<< 8) + (pos <<< 12) + (cnt <<< 16))

/-- The command word whose bits are the low `nbits` bits of `w`, every other bit 0 (R80: one 32-bit word). -/
def tableWord (nbits w : Nat) : Word := BitVec.ofNat 32 (w % 2 ^ nbits)

/-- The command the decoder reads from the table's bits `w`; none where the word is illegal. -/
def decodeTableWord (nbits w : Nat) : Option Instr :=
  match decode (tableWord nbits w) with
  | .ok i => some i
  | .error _ => none

end Sys2Proof
end

