-- ==== Sys2Proof/Machine/Decimal.lean ====
section
/-! DEFINITION. Exact decimals (R11), their canonical form (R12), decimal digits (R13), and the fixed-width
encodings of R9. A decimal `(M, E)` is a natural coefficient and an integer exponent, and denotes M × 10^E. -/

namespace Sys2Proof.Machine

/-- The loop of R12: "while m mod 10 = 0: m <- m / 10; e <- e + 1", at most `fuel` times. -/
def canonLoop : (fuel m : Nat) → (e : Int) → Nat × Int
  | 0, m, e => (m, e)
  | fuel + 1, m, e => if m % 10 = 0 then canonLoop fuel (m / 10) (e + 1) else (m, e)

/-- R12 `canon(M, E)`: none is ZERO; else the coefficient without trailing zeros and its exponent. The fuel `M` is
never used up, because a positive number is divided by 10 fewer than `M` times. -/
def canon (M : Nat) (E : Int) : Option (Nat × Int) :=
  if M = 0 then none else some (canonLoop M M E)

/-- The digit count with `fuel` divisions by 10 allowed. -/
def ndigitsAux : (fuel m : Nat) → Nat
  | 0, _ => 1
  | fuel + 1, m => if m < 10 then 1 else ndigitsAux fuel (m / 10) + 1

/-- R13 `ndigits(m)`, for `m ≥ 1`: the least `k ≥ 1` with `m < 10^k`. -/
def ndigits (m : Nat) : Nat := ndigitsAux m m

/-- R13 `digit_i(m)`, for `0 ≤ i < ndigits(m)`: the i-th decimal digit, index 0 the most significant. -/
def digitAt (m i : Nat) : Nat := m / 10 ^ (ndigits m - 1 - i) % 10

/-- The decimal digits of `m`, most significant first (R13). -/
def digitsOf (m : Nat) : List Nat := (List.range (ndigits m)).map (digitAt m)

/-- `M × 10^E ≤ bound`, exactly (R11, R183). -/
def decimalAtMost (M : Nat) (E : Int) (bound : Nat) : Bool :=
  if 0 ≤ E then decide (M * 10 ^ E.toNat ≤ bound) else decide (M ≤ bound * 10 ^ (-E).toNat)

/-- R9 `sext_N(v)`: the two's-complement value of a bit field. -/
def sext {n : Nat} (v : BitVec n) : Int := v.toInt

/-- R9 `enc_N(x)`: the N-bit two's-complement encoding, meant for −2^(N−1) ≤ x < 2^(N−1). -/
def enc (n : Nat) (x : Int) : BitVec n := BitVec.ofInt n x

end Sys2Proof.Machine
end

