-- ==== Sys2Proof/Machine/Registers.lean ====
section
/-! DEFINITION. The registers of the engine as structures (R26, R28 to R33, R40, R46), the cause codes of R240, and
the host's port cycles (R60). Types only: what reads and writes them stands in the other files of Machine. -/

namespace Sys2Proof.Machine

/-- The operand registers (R28 to R33), each with exactly the bits it keeps (R34: a reserved bit reads 0 and ignores
what is written). The operand snapshot of R51 has the same shape. -/
structure Operands where
  /-- SEQ_IN (R28): [3:0] S0 … [23:20] S5, [26:24] LEN. -/
  seqIn : BitVec 27
  /-- RES_M_LO (R29): bits [31:0] of RES_M. -/
  resMLo : Word
  /-- RES_M_HI (R29): bits [63:32] of RES_M. -/
  resMHi : Word
  /-- RES_E (R30): a 16-bit two's-complement exponent. -/
  resE : BitVec 16
  /-- TOL_M (R31). -/
  tolM : Word
  /-- OPT_CTL (R32): [7:0] TOL_E, [8] TOL_P, [9] TCR_P. -/
  optCtl : BitVec 10
  /-- TCR_V (R33). -/
  tcrV : Word
  deriving DecidableEq, Repr

/-- Every operand register at its reset value 0 (R55). -/
def Operands.reset : Operands :=
  { seqIn := 0, resMLo := 0, resMHi := 0, resE := 0, tolM := 0, optCtl := 0, tcrV := 0 }

/-- The resistor register R = (valid, count, band[0..5]) (R40). -/
structure Resistor where
  valid : Bool
  count : BitVec 3
  bands : Vector Code 6
  deriving DecidableEq, Repr

/-- R holding no resistor: its reset value, valid 0, count 0, bands 0 (R40, R55). -/
def Resistor.empty : Resistor := { valid := false, count := 0, bands := #v[0, 0, 0, 0, 0, 0] }

/-- The error causes (R240), in the order of their codes. -/
inductive Cause where
  | eCmd | eCount | eColor | eTol | eTcr | eNotrep | eMisstol | eNolayout | eBounds | eNores | eUndef | eBusywr
  deriving DecidableEq, Repr

/-- The STATUS register by fields (R26); its reserved bits hold nothing and read 0. -/
structure Status where
  busy : Bool
  ok : Bool
  eCmd : Bool
  eCount : Bool
  eColor : Bool
  eTol : Bool
  eTcr : Bool
  eNotrep : Bool
  eMisstol : Bool
  eNolayout : Bool
  eBounds : Bool
  eNores : Bool
  eUndef : Bool
  eBusywr : Bool
  errPos : BitVec 3
  deriving DecidableEq, Repr

/-- STATUS after reset: every field 0 (R26, R55). -/
def Status.reset : Status :=
  { busy := false, ok := false, eCmd := false, eCount := false, eColor := false, eTol := false, eTcr := false,
    eNotrep := false, eMisstol := false, eNolayout := false, eBounds := false, eNores := false, eUndef := false,
    eBusywr := false, errPos := 0 }

/-- A pending command: the content of PEND when it is not empty (R46), with the engine cycles left until its
commit, which the open parameter LATENCY set at the issue (R50, R277; log entry 1). -/
structure Pending where
  word : Word
  snap : Operands
  remaining : Nat
  deriving DecidableEq, Repr

/-- What the host presents to the port in one clock cycle (R60), with the reset input `rst`: who drives `rst` is open
in the spec, and it is part of the host's listed cycle here (DESIGN CHOICE, log entry 20). -/
structure BusCycle where
  rst : Bool
  wr : Bool
  rd : Bool
  addr : Addr
  wdata : Word
  deriving DecidableEq, Repr

/-- One step of the host's program: a port cycle, or the polling loop `wait` of R91. -/
inductive HostStep where
  /-- One cycle with these signals. -/
  | cycle (c : BusCycle)
  /-- `L: rd STATUS`, repeated while bit 0 of the value read is 1 (R91); its cycles carry no reset (log entry 20). -/
  | wait
  deriving DecidableEq, Repr

/-- The host agent (R6), a field of the model (log entries 5 and 6): the rest of its program, what the port drove on
`bus_rdata` in the last cycle (none when `bus_rd` was 0), and the values its `rd` statements recorded (R90). -/
structure HostAgent where
  program : List HostStep
  rdata : Option Word
  recorded : List Word
  deriving DecidableEq, Repr

/-- A host with nothing to do: every cycle is idle. -/
def HostAgent.idle : HostAgent := { program := [], rdata := none, recorded := [] }

end Sys2Proof.Machine
end

