-- ==== Sys2Proof/Machine/State.lean ====
section
/-! DEFINITION. The machine's state (R52), its reset value (R55), and the reasons a step could stop. -/

namespace Sys2Proof.Machine

/-- Reasons for a fault: none. No error of the engine stops it: every error is a status report that the failing
command commits (R247, R244), and "every command commits" (R278). Safe: there is nothing to raise (log entry 14). -/
inductive Fault where
  deriving DecidableEq, Repr

/-- Reasons for a refusal. -/
inductive Refusal where
  /-- An instruction that has no meaning yet, by its mnemonic. Raised only by a refused arm of `exec`; there is none
  in this model. Safe: nothing is claimed of such an instruction. -/
  | notModelled (mnemonic : String)
  deriving DecidableEq, Repr

/-- The engine's state in one record (R52), with the host agent (R6) and the model's cycle counter. -/
structure State where
  /-- The operand registers SEQ_IN … TCR_V (R28 to R33). -/
  operands : Operands
  /-- The resistor register R (R40). -/
  resistor : Resistor
  /-- NORM_OUT (R43). -/
  normOut : Word
  /-- Q_OUT (R44). -/
  qOut : Word
  /-- STATUS (R26). -/
  status : Status
  /-- PEND (R46). -/
  pend : Option Pending
  /-- The host agent: the model's own field (log entry 5). -/
  host : HostAgent
  /-- Steps taken: the model's own field, the index of the free values (log entry 4). -/
  cycle : Nat
  deriving DecidableEq, Repr

/-- The machine right after reset (R55, R270): every register 0, R invalid, PEND empty. -/
def State.reset : State :=
  { operands := Operands.reset
    resistor := Resistor.empty
    normOut := 0
    qOut := 0
    status := Status.reset
    pend := none
    host := HostAgent.idle
    cycle := 0 }

end Sys2Proof.Machine
end

