-- ==== Sys2Proof/Config.lean ====
section
/-! DEFINITION. What the spec leaves open, as constants without a body: nothing can evaluate them, so whatever is
proved holds for every value. -/

namespace Sys2Proof.Config

/-- LATENCY − 1 of one issued command (R7, R277: "at least 1, finite, and it may differ per command and per operand
value"): a function of the cycle of the issue, the command word, the operands and R. FREE VALUE, log entry 1. -/
opaque extraLatency : Nat → Word → Machine.Operands → Machine.Resistor → Nat

/-- What a host read returns in a cycle with `rst` = 1 (R270: "an unspecified value"; U12: any 32-bit value), by the
number of the cycle. FREE VALUE, log entry 3. -/
opaque resetReadData : Nat → Word

/-- ID (R24): the identity constant of the block. -/
abbrev identity : Word := 0x54530007#32

/-- IMPLICIT_TOL (R7): the tolerance of a resistor with no tolerance band, in basis points. -/
abbrev implicitTolBp : Nat := 2000

/-- EXP_MIN (R7). -/
abbrev expMin : Int := -3

/-- EXP_MAX (R7). -/
abbrev expMax : Int := 9

/-- TWO_DIGIT_LIMIT (R7): the compaction threshold. -/
abbrev twoDigitLimit : Nat := 99 * 10 ^ 9

/-- BAND_COUNTS (R7): the legal band counts. -/
abbrev bandCounts : List Nat := [1, 3, 4, 5, 6]

end Sys2Proof.Config
end

