-- ==== Sys2Proof/Machine/Tables.lean ====
section
/-! DEFINITION. The two ROMs of the engine (R45): the Color Table (R101) with its lookups and inverses (R102 to R109,
R115 stands in Machine/Operands.lean), and the Band Validity Matrix (R112) with `legal` (R111). A symbol is its code as
a number (R27); a role that is `none` is the spec's ⊥ (R10, R100). -/

namespace Sys2Proof.Machine

/-- One entry of the Color Table ROM: the four roles of a symbol (R100). -/
structure ColorRow where
  name : String
  digit : Option Nat
  digexp : Int
  tolBp : Option Nat
  tcr : Option Nat
  deriving DecidableEq, Repr

/-- The Color Table ROM (R101), in the order of the codes 0 to 12 (R27). The default table of the parameter
COLOR_TABLE (R7, log entry 2). -/
def colorTable : List ColorRow :=
  [ ⟨"black", some 0, 0, none, some 250⟩,
    ⟨"brown", some 1, 1, some 100, some 100⟩,
    ⟨"red", some 2, 2, some 200, some 50⟩,
    ⟨"orange", some 3, 3, some 5, some 15⟩,
    ⟨"yellow", some 4, 4, some 2, some 25⟩,
    ⟨"green", some 5, 5, some 50, some 20⟩,
    ⟨"blue", some 6, 6, some 25, some 10⟩,
    ⟨"violet", some 7, 7, some 10, some 5⟩,
    ⟨"grey", some 8, 8, some 1, some 1⟩,
    ⟨"white", some 9, 9, none, none⟩,
    ⟨"gold", none, -1, some 500, none⟩,
    ⟨"silver", none, -2, some 1000, none⟩,
    ⟨"pink", none, -3, none, none⟩ ]

/-- R102 `digit(s)`. -/
def digit (s : Nat) : Option Nat := (colorTable[s]?).bind (·.digit)

/-- R103 `digexp(s)`. -/
def digexp (s : Nat) : Option Int := (colorTable[s]?).map (·.digexp)

/-- R104 `tol_bp(s)`, in basis points. -/
def tolBp (s : Nat) : Option Nat := (colorTable[s]?).bind (·.tolBp)

/-- R105 `tcr(s)`, in ppm/K. -/
def tcr (s : Nat) : Option Nat := (colorTable[s]?).bind (·.tcr)

/-- R106 `sym_of_tol_bp(b)`: the unique code whose tolerance is `b` basis points. -/
def symOfTolBp (b : Nat) : Option Nat := (List.range colorTable.length).find? (fun s => tolBp s == some b)

/-- R107 `sym_of_tcr(p)`: the unique code whose TCR is `p` ppm/K. -/
def symOfTcr (p : Nat) : Option Nat := (List.range colorTable.length).find? (fun s => tcr s == some p)

/-- R108 `sym_of_exp(x)`: the code of the exponent band. -/
def symOfExp (x : Int) : Option Nat :=
  if 0 ≤ x ∧ x ≤ 9 then some x.toNat
  else if x = -1 then some 10
  else if x = -2 then some 11
  else if x = -3 then some 12
  else none

/-- R109 `sym_of_digit(d)`. -/
def symOfDigit (d : Nat) : Option Nat := if d ≤ 9 then some d else none

/-- The named masks of R112: bit `s` is 1 when code `s` is admitted. -/
def maskZero : BitVec 16 := 0x0001#16

/-- A first digit: Brown to White (R112, R113). -/
def maskDignz : BitVec 16 := 0x03FE#16

/-- A digit: Black to White (R112). -/
def maskDig : BitVec 16 := 0x03FF#16

/-- An exponent: all 13 symbols (R112). -/
def maskExp : BitVec 16 := 0x1FFF#16

/-- A tolerance: the ten tolerance-bearing symbols (R112). -/
def maskTol : BitVec 16 := 0x0DFE#16

/-- A TCR: Black to Grey (R112). -/
def maskTcr : BitVec 16 := 0x01FF#16

/-- The Matrix ROM (R112): for each band count, the cells of its positions. 19 cells (R110). -/
def matrix : List (Nat × List (BitVec 16)) :=
  [ (1, [maskZero]),
    (3, [maskDignz, maskDig, maskExp]),
    (4, [maskDignz, maskDig, maskExp, maskTol]),
    (5, [maskDignz, maskDig, maskDig, maskExp, maskTol]),
    (6, [maskDignz, maskDig, maskDig, maskExp, maskTol, maskTcr]) ]

/-- The cell of a count and a position, none where R112 has no cell. -/
def cell (cnt pos : Nat) : Option (BitVec 16) := (matrix.lookup cnt).bind (·[pos]?)

/-- R111 `legal(s, pos, cnt)`. -/
def legal (s pos cnt : Nat) : Bool :=
  match cell cnt pos with
  | some m => m.getLsbD s
  | none => false

end Sys2Proof.Machine
end

