-- ==== Sys2Proof/Machine/Operands.lean ====
section
/-! DEFINITION. Every operand form: the fields of the operand registers as the commands read them (R28 to R33, R180),
the snapshot they are read from (R51), and the tolerance operand as a symbol (R115). -/

namespace Sys2Proof.Machine

/-- SEQ_IN.LEN (R28). -/
def Operands.seqLen (o : Operands) : Nat := (o.seqIn.extractLsb 26 24).toNat

/-- SEQ_IN.S0 to S5 (R28): position `i` is the field `SEQ_IN[4i+3:4i]`. -/
def Operands.seqSyms (o : Operands) : List Nat :=
  [ (o.seqIn.extractLsb 3 0).toNat, (o.seqIn.extractLsb 7 4).toNat, (o.seqIn.extractLsb 11 8).toNat,
    (o.seqIn.extractLsb 15 12).toNat, (o.seqIn.extractLsb 19 16).toNat, (o.seqIn.extractLsb 23 20).toNat ]

/-- RES_M = RES_M_HI ++ RES_M_LO (R29). -/
def Operands.resM (o : Operands) : BitVec 64 := o.resMHi ++ o.resMLo

/-- The coefficient of the resistance operand (R30). -/
def Operands.resCoeff (o : Operands) : Nat := o.resM.toNat

/-- The exponent of the resistance operand, `sext_16(RES_E)` (R30). -/
def Operands.resExp (o : Operands) : Int := sext o.resE

/-- The coefficient of the tolerance operand, in percent (R31, R32). -/
def Operands.tolCoeff (o : Operands) : Nat := o.tolM.toNat

/-- The exponent of the tolerance operand, `sext_8(OPT_CTL.TOL_E)` (R32). -/
def Operands.tolExp (o : Operands) : Int := sext (o.optCtl.extractLsb 7 0)

/-- OPT_CTL.TOL_P (R32). -/
def Operands.tolPresent (o : Operands) : Bool := o.optCtl.getLsbD 8

/-- OPT_CTL.TCR_P (R32). -/
def Operands.tcrPresent (o : Operands) : Bool := o.optCtl.getLsbD 9

/-- The TCR operand in ppm/K (R33). -/
def Operands.tcrValue (o : Operands) : Nat := o.tcrV.toNat

/-- The operand snapshot of the pending command (R51). Where nothing is pending no command executes; the live
registers stand in for the snapshot then (log entry 10). -/
def State.snap (s : State) : Operands :=
  match s.pend with
  | some p => p.snap
  | none => s.operands

/-- R115 `tol_sym(M, E)`: the symbol whose tolerance is exactly M × 10^E percent. -/
def tolSym (M : Nat) (E : Int) : Option Nat :=
  match canon M E with
  | none => none
  | some (m, e) =>
    if e + 2 < 0 then none
    else if 4 < e + 2 then none
    else symOfTolBp (m * 10 ^ (e + 2).toNat)

end Sys2Proof.Machine
end

