-- ==== Sys2Proof/Machine/Flags.lean ====
section
/-! DEFINITION. The STATUS flags: their cause codes (R240), how they are set and cleared (R26, R50, R63), and the
word a host reads (R26). -/

namespace Sys2Proof.Machine

/-- The cause code of R240: the flag's bit number in STATUS. -/
def Cause.code (c : Cause) : Nat :=
  match c with
  | .eCmd => 2
  | .eCount => 3
  | .eColor => 4
  | .eTol => 5
  | .eTcr => 6
  | .eNotrep => 7
  | .eMisstol => 8
  | .eNolayout => 9
  | .eBounds => 10
  | .eNores => 11
  | .eUndef => 12
  | .eBusywr => 13

/-- The STATUS flag of a cause (R240). -/
def Status.flag (st : Status) (c : Cause) : Bool :=
  match c with
  | .eCmd => st.eCmd
  | .eCount => st.eCount
  | .eColor => st.eColor
  | .eTol => st.eTol
  | .eTcr => st.eTcr
  | .eNotrep => st.eNotrep
  | .eMisstol => st.eMisstol
  | .eNolayout => st.eNolayout
  | .eBounds => st.eBounds
  | .eNores => st.eNores
  | .eUndef => st.eUndef
  | .eBusywr => st.eBusywr

/-- "STATUS.E_x <- 1 for every E_x in S" (R50); every other field stays. -/
def Status.setFlags (causes : List Cause) (st : Status) : Status :=
  { st with
    eCmd := st.eCmd || causes.contains .eCmd
    eCount := st.eCount || causes.contains .eCount
    eColor := st.eColor || causes.contains .eColor
    eTol := st.eTol || causes.contains .eTol
    eTcr := st.eTcr || causes.contains .eTcr
    eNotrep := st.eNotrep || causes.contains .eNotrep
    eMisstol := st.eMisstol || causes.contains .eMisstol
    eNolayout := st.eNolayout || causes.contains .eNolayout
    eBounds := st.eBounds || causes.contains .eBounds
    eNores := st.eNores || causes.contains .eNores
    eUndef := st.eUndef || causes.contains .eUndef
    eBusywr := st.eBusywr || causes.contains .eBusywr }

/-- STATUS at an issue (R50): BUSY 1, OK 0, bits [12:2] and ERR_POS 0; E_BUSYWR unchanged. -/
def Status.issued (st : Status) : Status :=
  { Status.reset with busy := true, eBusywr := st.eBusywr }

/-- STATUS at a commit that succeeded (R50): OK 1, BUSY 0; nothing else. -/
def Status.succeeded (st : Status) : Status := { st with ok := true, busy := false }

/-- STATUS at a commit that failed with the causes `causes` and the position `pos` (R50): the flags set, ERR_POS the
position, OK 0, BUSY 0. -/
def Status.failed (causes : List Cause) (pos : Nat) (st : Status) : Status :=
  { st.setFlags causes with errPos := BitVec.ofNat 3 pos, ok := false, busy := false }

/-- A dropped write sets the sticky flag E_BUSYWR (R63). -/
def Status.writeDropped (st : Status) : Status := { st with eBusywr := true }

/-- A host write to STATUS (R62, word 2): bit 13 = 1 clears E_BUSYWR, every other bit is ignored. -/
def Status.written (v : BitVec 32) (st : Status) : Status :=
  { st with eBusywr := st.eBusywr && !v.getLsbD 13 }

/-- The word a read of STATUS returns (R26): bits [31:19] and [15:14] are reserved and read 0. -/
def Status.word (st : Status) : BitVec 32 :=
  (0#13 ++ st.errPos ++ 0#2 ++ BitVec.ofBool st.eBusywr ++ BitVec.ofBool st.eUndef ++ BitVec.ofBool st.eNores
    ++ BitVec.ofBool st.eBounds ++ BitVec.ofBool st.eNolayout ++ BitVec.ofBool st.eMisstol
    ++ BitVec.ofBool st.eNotrep ++ BitVec.ofBool st.eTcr ++ BitVec.ofBool st.eTol ++ BitVec.ofBool st.eColor
    ++ BitVec.ofBool st.eCount ++ BitVec.ofBool st.eCmd ++ BitVec.ofBool st.ok ++ BitVec.ofBool st.busy)

end Sys2Proof.Machine
end

