-- ==== Sys2Proof/Machine/Views.lean ====
section
/-! DEFINITION. What a host reads: the spec decoder and the view registers (R160 to R166, R41, R42), the bands view
(R145), the register map (R23), a bus read (R61) and the byte-addressed bridge of R65. -/

namespace Sys2Proof.Machine

/-- Band `i` of a resistor as a symbol number (R40); 0 beyond the six slots. -/
def Resistor.band (r : Resistor) (i : Nat) : Nat := ((r.bands[i]?).getD 0).toNat

/-- The decoded values of a resistor (R160, before the bounds of R166). -/
structure Specs where
  ohmM : Nat
  ohmE : Int
  tolBp : Nat
  tcr : Option Nat
  deriving DecidableEq, Repr

/-- The mantissa of two digit bands: 10·d1 + d2 (R162, R163). -/
def mantissa2 (a b : Nat) : Option Nat := do
  let da ← digit a
  let db ← digit b
  pure (10 * da + db)

/-- The mantissa of three digit bands: 100·d1 + 10·d2 + d3 (R164, R165). -/
def mantissa3 (a b c : Nat) : Option Nat := do
  let da ← digit a
  let db ← digit b
  let dc ← digit c
  pure (100 * da + 10 * db + dc)

/-- `decode_by_count(R)` (R161 to R165). A role that is ⊥ gives none: no R that the engine holds has one (R160,
R114 (a); log entry 8). -/
def decodeByCount (r : Resistor) : Option Specs :=
  match r.count.toNat with
  | 1 => some { ohmM := 0, ohmE := 0, tolBp := Config.implicitTolBp, tcr := none }
  | 3 => do
    let m ← mantissa2 (r.band 0) (r.band 1)
    let x ← digexp (r.band 2)
    pure { ohmM := m, ohmE := x, tolBp := Config.implicitTolBp, tcr := none }
  | 4 => do
    let m ← mantissa2 (r.band 0) (r.band 1)
    let x ← digexp (r.band 2)
    let t ← tolBp (r.band 3)
    pure { ohmM := m, ohmE := x, tolBp := t, tcr := none }
  | 5 => do
    let m ← mantissa3 (r.band 0) (r.band 1) (r.band 2)
    let x ← digexp (r.band 3)
    let t ← tolBp (r.band 4)
    pure { ohmM := m, ohmE := x, tolBp := t, tcr := none }
  | 6 => do
    let m ← mantissa3 (r.band 0) (r.band 1) (r.band 2)
    let x ← digexp (r.band 3)
    let t ← tolBp (r.band 4)
    let p ← tcr (r.band 5)
    pure { ohmM := m, ohmE := x, tolBp := t, tcr := some p }
  | _ => none

/-- `specs(R)` (R160): none when R is not valid. -/
def specs (r : Resistor) : Option Specs := if r.valid then decodeByCount r else none

/-- The coefficient of `min_ohm` (R166). -/
def Specs.minM (p : Specs) : Nat := p.ohmM * (10000 - p.tolBp)

/-- The coefficient of `max_ohm` (R166). -/
def Specs.maxM (p : Specs) : Nat := p.ohmM * (10000 + p.tolBp)

/-- The exponent of `min_ohm` and of `max_ohm` (R166). -/
def Specs.boundE (p : Specs) : Int := p.ohmE - 4

/-- SPEC_OHM (R42, R160): [31] SPEC_VALID, [23:16] OHM_E, [9:0] OHM_M. -/
def specOhmWord (p : Specs) : Word := 1#1 ++ 0#7 ++ enc 8 p.ohmE ++ 0#6 ++ BitVec.ofNat 10 p.ohmM

/-- SPEC_TOL (R42, R160): [31] SPEC_VALID, [24] TCR_SOME, [23:16] TCR_PPM, [11:0] TOL_BP. -/
def specTolWord (p : Specs) : Word :=
  1#1 ++ 0#6 ++ BitVec.ofBool p.tcr.isSome ++ BitVec.ofNat 8 (p.tcr.getD 0) ++ 0#4 ++ BitVec.ofNat 12 p.tolBp

/-- SPEC_MIN (R42, R160): [31:24] MIN_E, [23:0] MIN_M. -/
def specMinWord (p : Specs) : Word := enc 8 p.boundE ++ BitVec.ofNat 24 p.minM

/-- SPEC_MAX (R42, R160): [31:24] MAX_E, [23:0] MAX_M. -/
def specMaxWord (p : Specs) : Word := enc 8 p.boundE ++ BitVec.ofNat 24 p.maxM

/-- A SPEC_* view: a function of the current R at every moment, 0 when there is no resistor (R42, R160). -/
def specView (word : Specs → Word) (r : Resistor) : Word :=
  match specs r with
  | some p => word p
  | none => 0

/-- Nibble `i` of R_STATE.BANDS: `band[i]` for `i < count`, else 0 (R41). -/
def bandNibble (r : Resistor) (i : Nat) : Code := if i < r.count.toNat then (r.bands[i]?).getD 0 else 0

/-- R_STATE (R41): [31] VALID, [26:24] COUNT, [23:0] BANDS; all 0 when R is not valid. -/
def rStateWord (r : Resistor) : Word :=
  if r.valid then
    1#1 ++ 0#4 ++ r.count ++ bandNibble r 5 ++ bandNibble r 4 ++ bandNibble r 3 ++ bandNibble r 2
      ++ bandNibble r 1 ++ bandNibble r 0
  else 0

/-- The bands view (R145): the source's `bands(resistor)`, empty when there is no resistor. -/
def bandsView (r : Resistor) : List Nat := if r.valid then (List.range r.count.toNat).map r.band else []

/-- The registers of the map (R23). -/
inductive Reg where
  | id | cmd | status | seqIn | resMLo | resMHi | resE | tolM | optCtl | tcrV
  | rState | specOhm | specTol | specMin | specMax | normOut | qOut
  deriving DecidableEq, Repr

/-- The word address of a register (R23). -/
def Reg.addr (r : Reg) : Addr :=
  match r with
  | .id => 0
  | .cmd => 1
  | .status => 2
  | .seqIn => 3
  | .resMLo => 4
  | .resMHi => 5
  | .resE => 6
  | .tolM => 7
  | .optCtl => 8
  | .tcrV => 9
  | .rState => 16
  | .specOhm => 17
  | .specTol => 18
  | .specMin => 19
  | .specMax => 20
  | .normOut => 21
  | .qOut => 22

/-- The registers in the order of the map (R23). -/
def allRegs : List Reg :=
  [.id, .cmd, .status, .seqIn, .resMLo, .resMHi, .resE, .tolM, .optCtl, .tcrV,
    .rState, .specOhm, .specTol, .specMin, .specMax, .normOut, .qOut]

/-- The register at a word address; none at a reserved word, 10 to 15 and 23 to 31 (R23, R34). -/
def regAt (a : Addr) : Option Reg := allRegs.find? (fun r => r.addr == a)

/-- The value a register reads as: R24 (ID), R25 (CMD reads 0), R26, R28 to R33, R41 to R44. -/
def readReg (s : State) (r : Reg) : Word :=
  match r with
  | .id => Config.identity
  | .cmd => 0
  | .status => s.status.word
  | .seqIn => s.operands.seqIn.zeroExtend 32
  | .resMLo => s.operands.resMLo
  | .resMHi => s.operands.resMHi
  | .resE => s.operands.resE.zeroExtend 32
  | .tolM => s.operands.tolM
  | .optCtl => s.operands.optCtl.zeroExtend 32
  | .tcrV => s.operands.tcrV
  | .rState => rStateWord s.resistor
  | .specOhm => specView specOhmWord s.resistor
  | .specTol => specView specTolWord s.resistor
  | .specMin => specView specMinWord s.resistor
  | .specMax => specView specMaxWord s.resistor
  | .normOut => s.normOut
  | .qOut => s.qOut

/-- `BusRead(a)` (R61): the value at word `a`, 0 at a reserved word (R34). A read changes no state. -/
def busRead (a : Addr) (s : State) : Word :=
  match regAt a with
  | some r => readReg s r
  | none => 0

/-- The `busy` output (R60): equal to STATUS.BUSY at every moment. -/
def busyPin (s : State) : Bool := s.status.busy

/-- A byte read through a bridge to a byte-addressed bus (R65): byte offset `4a + j` is bits `[8j+7:8j]` of word `a`. -/
def bridgeByte (offset : BitVec 7) (s : State) : BitVec 8 :=
  (busRead (offset.extractLsb 6 2) s).extractLsb' (8 * (offset.extractLsb 1 0).toNat) 8

end Sys2Proof.Machine
end

