-- ==== Sys2Proof/Machine/Ops.lean ====
section
/-! DEFINITION. The named operations over the registers: the commit of a command, with its success and its error arm
(R50, R244), the issue of a command (R50, R51), and the host's bus write (R62, R63). The engine has no trap and no
return from one (R247, R248): `State.raise` is all that an error does, the one shared operation for it. -/

namespace Sys2Proof.Machine

/-- The registers a command's commit writes (R50): a whole new R, NORM_OUT, Q_OUT. -/
structure Effects where
  resistor : Option Resistor := none
  normOut : Option Word := none
  qOut : Option Word := none
  deriving DecidableEq, Repr

/-- The outcome of `execute(w, snap, R)` (R50): `Ok(effects)`, or `Err(S, pos)` with the failure effects of the
command's rule (NORM_OUT or Q_OUT cleared; R never). -/
inductive CmdOutcome where
  | ok (effects : Effects)
  | err (causes : List Cause) (pos : Nat) (effects : Effects)
  deriving DecidableEq, Repr

/-- The commit of a command that succeeded (R50): its effects, OK 1, BUSY 0, PEND empty, in one step. -/
def State.succeed (e : Effects) (s : State) : State :=
  { s with
    resistor := e.resistor.getD s.resistor
    normOut := e.normOut.getD s.normOut
    qOut := e.qOut.getD s.qOut
    status := s.status.succeeded
    pend := none }

/-- The commit of a command that failed (R50, R244): the flags of `causes`, ERR_POS, OK 0, BUSY 0, PEND empty, and
NORM_OUT or Q_OUT where the command's rule clears it. R is never written. -/
def State.raise (causes : List Cause) (pos : Nat) (e : Effects) (s : State) : State :=
  { s with
    normOut := e.normOut.getD s.normOut
    qOut := e.qOut.getD s.qOut
    status := s.status.failed causes pos
    pend := none }

/-- The commit step of R50. -/
def State.commit (o : CmdOutcome) (s : State) : State :=
  match o with
  | .ok e => s.succeed e
  | .err causes pos e => s.raise causes pos e

/-- LATENCY of a command issued now (R277): at least 1, otherwise open. -/
def latency (w : Word) (s : State) : Nat := Config.extraLatency s.cycle w s.operands s.resistor + 1

/-- PEND and STATUS once the command `w` has been issued with `cycles` engine cycles to go (R50, R51). -/
def State.place (w : Word) (cycles : Nat) (s : State) : State :=
  { s with
    pend := some { word := w, snap := s.operands, remaining := cycles }
    status := s.status.issued }

/-- R50 issue: PEND takes the word and the operand snapshot, BUSY 1, OK and the per-command flags 0. -/
def State.issue (w : Word) (s : State) : State := s.place w (latency w s)

/-- R63: a dropped write changes nothing but E_BUSYWR, which it sets. -/
def State.dropWrite (s : State) : State := { s with status := s.status.writeDropped }

/-- A write of an operand register (R62 words 3 to 9): performed while idle, dropped while BUSY. -/
def State.writeOperands (o : Operands) (s : State) : State :=
  if s.status.busy then s.dropWrite else { s with operands := o }

/-- A host write of `v` to a register (R62, R63); a write to a read-only register has no effect (R23). -/
def writeReg (r : Reg) (v : Word) (s : State) : State :=
  match r with
  | .id => s
  | .cmd => if s.status.busy then s.dropWrite else s.issue v
  | .status => { s with status := s.status.written v }
  | .seqIn => s.writeOperands { s.operands with seqIn := v.extractLsb 26 0 }
  | .resMLo => s.writeOperands { s.operands with resMLo := v }
  | .resMHi => s.writeOperands { s.operands with resMHi := v }
  | .resE => s.writeOperands { s.operands with resE := v.extractLsb 15 0 }
  | .tolM => s.writeOperands { s.operands with tolM := v }
  | .optCtl => s.writeOperands { s.operands with optCtl := v.extractLsb 9 0 }
  | .tcrV => s.writeOperands { s.operands with tcrV := v }
  | .rState => s
  | .specOhm => s
  | .specTol => s
  | .specMin => s
  | .specMax => s
  | .normOut => s
  | .qOut => s

/-- `BusWrite(a, v)` (R62): reserved words ignore it and never set E_BUSYWR (R34). -/
def busWrite (a : Addr) (v : Word) (s : State) : State :=
  match regAt a with
  | some r => writeReg r v s
  | none => s

end Sys2Proof.Machine
end

