-- ==== Sys2Proof/Machine/Construct.lean ====
section
/-! DEFINITION. The validating constructor (R140, R142, R143) and CONSTRUCT (R141). -/

namespace Sys2Proof.Machine

/-- The code of position `i` of a band sequence. -/
def codeAt (seq : List Nat) (i : Nat) : Nat := seq.getD i 0

/-- The slot `i` of a constructed R: the symbol for `i < L`, else 0 (R140, D39). -/
def slotOf (L : Nat) (seq : List Nat) (i : Nat) : Code :=
  if i < L then BitVec.ofNat 4 (codeAt seq i) else 0

/-- The resistor value with `L` bands (R140, the Ok arm). -/
def resistorOf (L : Nat) (seq : List Nat) : Resistor :=
  { valid := true
    count := BitVec.ofNat 3 L
    bands := #v[slotOf L seq 0, slotOf L seq 1, slotOf L seq 2, slotOf L seq 3, slotOf L seq 4, slotOf L seq 5] }

/-- The lowest position whose symbol its cell does not admit (R140, R142). -/
def firstIllegal (L : Nat) (seq : List Nat) : Option Nat :=
  (List.range L).find? (fun i => !legal (codeAt seq i) i L)

/-- R140 `construct(L, S)` as a command's outcome: the count is checked first, then the symbols from position 0. -/
def constructOutcome (L : Nat) (seq : List Nat) : CmdOutcome :=
  if L ∈ Config.bandCounts then
    match firstIllegal L seq with
    | some i => .err [.eColor] i {}
    | none => .ok { resistor := some (resistorOf L seq) }
  else .err [.eCount] 0 {}

/-- R141 CONSTRUCT. -/
def execConstruct (s : State) : Host.Outcome State Fault Refusal :=
  .next (s.commit (constructOutcome s.snap.seqLen s.snap.seqSyms))

end Sys2Proof.Machine
end

