-- ==== Sys2Proof/Machine/Control.lean ====
section
/-! DEFINITION. NOP (R230) and the illegal command (R232). -/

namespace Sys2Proof.Machine

/-- R230 NOP: no effect but the commit itself. -/
def execNop (s : State) : Host.Outcome State Fault Refusal := .next (s.commit (.ok {}))

/-- R232: an illegal word commits E_CMD and changes nothing else; no operand is read. -/
def execIllegal (s : State) : Host.Outcome State Fault Refusal := .next (s.commit (.err [.eCmd] 0 {}))

end Sys2Proof.Machine
end

