-- ==== Sys2Proof/Machine/Lut.lean ====
section
/-! DEFINITION. The seven lookup commands (R120 to R126): each writes only Q_OUT and STATUS. -/

namespace Sys2Proof.Machine

/-- Q_OUT holding a found value: `(1 << 31) + Q_VAL` (R44). -/
def qFound (v : BitVec 16) : Word := 1#1 ++ 0#15 ++ v

/-- The template of the lookup commands: a value goes to Q_OUT with Q_VALID; ⊥ clears Q_OUT and raises E_UNDEF. -/
def lookupOutcome (v : Option (BitVec 16)) : CmdOutcome :=
  match v with
  | some q => .ok { qOut := some (qFound q) }
  | none => .err [.eUndef] 0 { qOut := some 0 }

/-- An unsigned lookup result as Q_VAL (R44). -/
def qUnsigned (v : Option Nat) : Option (BitVec 16) := v.map (BitVec.ofNat 16)

/-- R120 LUT_DIGIT. -/
def execLutDigit (sym : Nat) (s : State) : Host.Outcome State Fault Refusal :=
  .next (s.commit (lookupOutcome (qUnsigned (digit sym))))

/-- R121 LUT_DIGEXP: the result is a 16-bit two's-complement number. -/
def execLutDigexp (sym : Nat) (s : State) : Host.Outcome State Fault Refusal :=
  .next (s.commit (lookupOutcome ((digexp sym).map (enc 16))))

/-- R122 LUT_TOL, in basis points. -/
def execLutTol (sym : Nat) (s : State) : Host.Outcome State Fault Refusal :=
  .next (s.commit (lookupOutcome (qUnsigned (tolBp sym))))

/-- R123 LUT_TCR, in ppm/K. -/
def execLutTcr (sym : Nat) (s : State) : Host.Outcome State Fault Refusal :=
  .next (s.commit (lookupOutcome (qUnsigned (tcr sym))))

/-- R124 LUT_TOLINV: the symbol of the tolerance operand in percent; OPT_CTL.TOL_P is not read. -/
def execLutTolinv (s : State) : Host.Outcome State Fault Refusal :=
  .next (s.commit (lookupOutcome (qUnsigned (tolSym s.snap.tolCoeff s.snap.tolExp))))

/-- R125 LUT_TCRINV: the symbol of TCR_V; OPT_CTL.TCR_P is not read. -/
def execLutTcrinv (s : State) : Host.Outcome State Fault Refusal :=
  .next (s.commit (lookupOutcome (qUnsigned (symOfTcr s.snap.tcrValue))))

/-- R126 LUT_MATRIX: 1 when the triple is legal, else 0; never an error. -/
def execLutMatrix (sym pos cnt : Nat) (s : State) : Host.Outcome State Fault Refusal :=
  .next (s.commit (lookupOutcome (some (if legal sym pos cnt then 1 else 0))))

end Sys2Proof.Machine
end

