-- ==== Sys2Proof/Machine/Mutator.lean ====
section
/-! DEFINITION. The band mutator (R220) and WITH_COLOR (R221). -/

namespace Sys2Proof.Machine

/-- The bands of R as numbers (R40). -/
def Resistor.codes (r : Resistor) : List Nat := [r.band 0, r.band 1, r.band 2, r.band 3, r.band 4, r.band 5]

/-- R220 `with_color(R, color, pos)`: E_NORES, then E_BOUNDS, then the re-validation of the whole sequence. -/
def withColorOutcome (r : Resistor) (color pos : Nat) : CmdOutcome :=
  if !r.valid then .err [.eNores] 0 {}
  else if r.count.toNat ≤ pos then .err [.eBounds] 0 {}
  else constructOutcome r.count.toNat (r.codes.set pos color)

/-- R221 WITH_COLOR. -/
def execWithColor (color pos : Nat) (s : State) : Host.Outcome State Fault Refusal :=
  .next (s.commit (withColorOutcome s.resistor color pos))

end Sys2Proof.Machine
end

