-- ==== Sys2Proof/Machine/Resolver.lean ====
section
/-! DEFINITION. The resistance resolver: normalisation (R183) with its closed form (R184), the operand checks (R181,
R182), the layout selection (R187 to R189), NORMALIZE (R186) and DETERMINE (R190 to R192). -/

namespace Sys2Proof.Machine

/-- R183, "strip the decimal point by scaling": a whole number keeps its trailing zeros. -/
def stripPoint (m : Nat) (e : Int) : Nat × Int := if 0 ≤ e then (m * 10 ^ e.toNat, 0) else (m, e)

/-- R183, the special case of one significant digit: pad with a zero and decrement the exponent. `s < 10` is
`ndigits(s) = 1` (R13). -/
def padSingle (s : Nat) (x : Int) : Nat × Int := if s < 10 then (10 * s, x - 1) else (s, x)

/-- The condition of R183's compaction loop: `ndigits(s) > 3`, or `ndigits(s) = 3` with a last digit 0 and a value of
at most 99 × 10^9 (`small`). By R13 `ndigits(s) > k` is `s ≥ 10^k`. -/
def mustCompact (small : Bool) (s : Nat) : Bool := 1000 ≤ s || (100 ≤ s && s % 10 == 0 && small)

/-- R183's trailing-zero compaction: "drop the last character and increment exponent", at most `fuel` times. -/
def compact (small : Bool) : (fuel s : Nat) → (x : Int) → Nat × Int
  | 0, s, x => (s, x)
  | fuel + 1, s, x => if mustCompact small s then compact small fuel (s / 10) (x + 1) else (s, x)

/-- R183's last check: the exponent lies in [−3, 9]. -/
def inExpRange (x : Int) : Bool := Config.expMin ≤ x && x ≤ Config.expMax

/-- R183 `normalize(M, E)`: the digits, most significant first, and the exponent; none is `Err({E_NOTREP})`. The fuel
of the compaction is never used up, because each turn makes a positive number smaller. -/
def normalize (M : Nat) (E : Int) : Option (List Nat × Int) :=
  match canon M E with
  | none => some ([0], 0)
  | some (m, e) =>
    if 3 < ndigits m then none
    else
      let stripped := stripPoint m e
      let padded := padSingle stripped.1 stripped.2
      let compacted := compact (decimalAtMost M E Config.twoDigitLimit) padded.1 padded.1 padded.2
      if inExpRange compacted.2 then some (digitsOf compacted.1, compacted.2) else none

/-- R184, the closed form of `normalize`. No command uses it: R183 is the definition, and a statement says that the
two agree. -/
def normalizeClosed (M : Nat) (E : Int) : Option (List Nat × Int) :=
  match canon M E with
  | none => some ([0], 0)
  | some (m, e) =>
    let big : Bool := (ndigits m == 2 && decide (10 ≤ e)) || decide (11 ≤ e)
    let result : Option (List Nat × Int) :=
      match ndigits m with
      | 3 => some (digitsOf m, e)
      | 2 => if big then some (digitsOf m ++ [0], e - 1) else some (digitsOf m, e)
      | 1 => if big then some ([m, 0, 0], e - 2) else some ([m, 0], e - 1)
      | _ => none
    result.bind (fun dx => if inExpRange dx.2 then some dx else none)

/-- The digit field of NORM_OUT for index `i`: 0 when there is no such digit (R43). -/
def normDigit (digits : List Nat) (i : Nat) : BitVec 4 := BitVec.ofNat 4 (digits.getD i 0)

/-- NORM_OUT of a normalised value (R43, R186): [31] N_VALID, [23:16] N_EXP, [13:12] N, then D2, D1, D0. -/
def normWord (digits : List Nat) (x : Int) : Word :=
  1#1 ++ 0#7 ++ enc 8 x ++ 0#2 ++ BitVec.ofNat 2 digits.length ++ normDigit digits 2 ++ normDigit digits 1
    ++ normDigit digits 0

/-- R186's outcome: NORM_OUT the normal form, or NORM_OUT cleared and E_NOTREP. -/
def normalizeOutcome (o : Operands) : CmdOutcome :=
  match normalize o.resCoeff o.resExp with
  | some (digits, x) => .ok { normOut := some (normWord digits x) }
  | none => .err [.eNotrep] 0 { normOut := some 0 }

/-- R186 NORMALIZE. -/
def execNormalize (s : State) : Host.Outcome State Fault Refusal := .next (s.commit (normalizeOutcome s.snap))

/-- The result of an operand check (R181, R182). -/
inductive Checked where
  | absent
  | invalid
  | valid (sym : Nat)
  deriving DecidableEq, Repr

/-- An operand that is present: valid when it names a symbol (R181, R182). -/
def Checked.ofSym (sym : Option Nat) : Checked :=
  match sym with
  | some t => .valid t
  | none => .invalid

/-- The symbol of a checked operand, none when it is absent (R187). -/
def Checked.sym (c : Checked) : Option Nat :=
  match c with
  | .absent => none
  | .invalid => none
  | .valid t => some t

/-- R181 `check_tol`: the value registers are read only when TOL_P is 1 (R180). -/
def checkTol (o : Operands) : Checked := if o.tolPresent then .ofSym (tolSym o.tolCoeff o.tolExp) else .absent

/-- R182 `check_tcr`. -/
def checkTcr (o : Operands) : Checked := if o.tcrPresent then .ofSym (symOfTcr o.tcrValue) else .absent

/-- A band sequence of symbols that must all exist. -/
def allSome : List (Option Nat) → Option (List Nat)
  | [] => some []
  | x :: xs =>
    match x, allSome xs with
    | some a, some as => some (a :: as)
    | _, _ => none

/-- The sequence of a row of R187; a ⊥ among its symbols is an exponent no symbol encodes, and fails with E_NOTREP
(R188; log entry 16). -/
def layout (bands : List (Option Nat)) : Except Cause (List Nat) :=
  match allSome bands with
  | some seq => .ok seq
  | none => .error .eNotrep

/-- R187 to R189 `select`: the row of the table by the digits, the tolerance symbol and the TCR symbol. The length of
the result is the length of its sequence. -/
def select (digits : List Nat) (x : Int) (t c : Option Nat) : Except Cause (List Nat) :=
  match digits, t, c with
  | [d], none, none => if d = 0 ∧ x = 0 then .ok [0] else .error .eNolayout
  | [d0, d1], none, none => layout [symOfDigit d0, symOfDigit d1, symOfExp x]
  | [d0, d1], some t, none => layout [symOfDigit d0, symOfDigit d1, symOfExp x, some t]
  | [d0, d1], some t, some c =>
    layout [symOfDigit d0, symOfDigit d1, some 0, symOfExp (x - 1), some t, some c]
  | [d0, d1, d2], some t, none => layout [symOfDigit d0, symOfDigit d1, symOfDigit d2, symOfExp x, some t]
  | [d0, d1, d2], some t, some c =>
    layout [symOfDigit d0, symOfDigit d1, symOfDigit d2, symOfExp x, some t, some c]
  | [_, _, _], none, none => .error .eMisstol
  | _, _, _ => .error .eNolayout

/-- The failures of steps 1 and 2, all of them together (R190, R191). -/
def stepErrors (tol tcrSym : Checked) (norm : Option (List Nat × Int)) : List Cause :=
  (if tol = .invalid then [.eTol] else []) ++ (if tcrSym = .invalid then [.eTcr] else [])
    ++ (if norm = none then [.eNotrep] else [])

/-- Steps 3 and 4 of DETERMINE (R187 to R192): the layout, through the validating constructor. -/
def resolveLayout (digits : List Nat) (x : Int) (t c : Option Nat) : CmdOutcome :=
  match select digits x t c with
  | .ok seq => constructOutcome seq.length seq
  | .error cause => .err [cause] 0 {}

/-- R190's outcome: every failure of steps 1 and 2, or else steps 3 and 4. -/
def determineOutcome (o : Operands) : CmdOutcome :=
  match normalize o.resCoeff o.resExp, stepErrors (checkTol o) (checkTcr o) (normalize o.resCoeff o.resExp) with
  | some (digits, x), [] => resolveLayout digits x (checkTol o).sym (checkTcr o).sym
  | _, errs => .err errs 0 {}

/-- R190 DETERMINE. -/
def execDetermine (s : State) : Host.Outcome State Fault Refusal := .next (s.commit (determineOutcome s.snap))

end Sys2Proof.Machine
end

