-- ==== Sys2Proof/Machine/Dispatch.lean ====
section
/-! DEFINITION. The commit of each command (R50 `execute`, selected by R85): one arm per constructor of Instr. -/

namespace Sys2Proof.Machine

def exec (i : Instr) (s : State) : Host.Outcome State Fault Refusal :=
  match i with
  | .nop => Sys2Proof.Machine.execNop s
  | .construct => Sys2Proof.Machine.execConstruct s
  | .determine => Sys2Proof.Machine.execDetermine s
  | .withColor color pos => Sys2Proof.Machine.execWithColor color pos s
  | .normalize => Sys2Proof.Machine.execNormalize s
  | .lutDigit sym => Sys2Proof.Machine.execLutDigit sym s
  | .lutDigexp sym => Sys2Proof.Machine.execLutDigexp sym s
  | .lutTol sym => Sys2Proof.Machine.execLutTol sym s
  | .lutTcr sym => Sys2Proof.Machine.execLutTcr sym s
  | .lutTolinv => Sys2Proof.Machine.execLutTolinv s
  | .lutTcrinv => Sys2Proof.Machine.execLutTcrinv s
  | .lutMatrix sym pos cnt => Sys2Proof.Machine.execLutMatrix sym pos cnt s

end Sys2Proof.Machine
end

