-- ==== Sys2Proof/Machine/Engine.lean ====
section
/-! DEFINITION. One rising edge of `clk` (R60): the host's port cycle (R61 to R64), the engine's cycle (R50, R277) and
reset (R270, R271). Both agents see the state before the edge (R274, R245; log entry 7). -/

namespace Sys2Proof.Machine

/-- A port cycle with no access. -/
def BusCycle.idle : BusCycle := { rst := false, wr := false, rd := false, addr := 0, wdata := 0 }

/-- The port cycle of a read (R61). -/
def BusCycle.read (a : Addr) : BusCycle := { BusCycle.idle with rd := true, addr := a }

/-- The port cycle of a write (R62). -/
def BusCycle.write (a : Addr) (v : Word) : BusCycle := { BusCycle.idle with wr := true, addr := a, wdata := v }

/-- What is presented in this cycle: an idle cycle when the host's program is at an end; `wait` reads STATUS (R91).
DESIGN CHOICE (log entry 20): `rst`, whose driver the spec leaves open (R6, R60), is 1 only in a port cycle that the
program lists, so neither a `wait` cycle nor a cycle after the program's end meets a reset. -/
def HostAgent.signals (h : HostAgent) : BusCycle :=
  match h.program with
  | [] => BusCycle.idle
  | .cycle c :: _ => c
  | .wait :: _ => BusCycle.read Reg.status.addr

/-- The host after a cycle in which the port drove `rdata`: it records the value of an `rd` statement (R90), and
repeats `wait` while bit 0 of the value read is 1 (R91). -/
def HostAgent.advance (rdata : Option Word) (h : HostAgent) : HostAgent :=
  match h.program with
  | [] => { h with rdata := rdata }
  | .cycle _ :: rest => { program := rest, rdata := rdata, recorded := h.recorded ++ rdata.toList }
  | .wait :: rest =>
    if (rdata.getD 0).getLsbD 0 then { h with rdata := rdata } else { h with program := rest, rdata := rdata }

/-- What the port drives on `bus_rdata` (R61, R64): the value before any write of the same cycle. -/
def portRdata (c : BusCycle) (s : State) : Option Word := if c.rd then some (busRead c.addr s) else none

/-- The registers after the host's access of this cycle (R62, R64). -/
def portWrite (c : BusCycle) (s : State) : State := if c.wr then busWrite c.addr c.wdata s else s

/-- The host's side of an edge without reset. -/
def hostEdge (c : BusCycle) (s : State) : State :=
  { portWrite c s with host := s.host.advance (portRdata c s), cycle := s.cycle + 1 }

/-- What a host read returns in a cycle with `rst` = 1 (R270): an unspecified value. -/
def resetRdata (c : BusCycle) (s : State) : Option Word := if c.rd then some (Config.resetReadData s.cycle) else none

/-- An edge with `rst` = 1 (R270, R271): every piece of state at its reset value, a pending command abandoned, the
host's access ignored. The host agent and the cycle counter are not the engine's and go on. -/
def resetEdge (c : BusCycle) (s : State) : State :=
  { State.reset with host := s.host.advance (resetRdata c s), cycle := s.cycle + 1 }

/-- Execute the command word `w` (R50, R85): the command it decodes to, or the illegal command of R232. -/
def execWord (w : Word) (s : State) : Host.Outcome State Fault Refusal :=
  match decode w with
  | .ok i => exec i s
  | .error _ => execIllegal s

/-- The engine's side of an edge (R50, R277): the command that was pending before the edge commits in its last cycle,
and counts down before that. With PEND empty the engine does nothing (R255, R278). -/
def engineEdge (pend : Option Pending) (s : State) : Host.Outcome State Fault Refusal :=
  match pend with
  | none => .next s
  | some p =>
    if p.remaining ≤ 1 then execWord p.word s
    else .next { s with pend := some { p with remaining := p.remaining - 1 } }

/-- One rising edge of `clk`: reset wins over everything (R271); else the host's access and the engine's cycle. -/
def clockEdge (c : BusCycle) (s : State) : Host.Outcome State Fault Refusal :=
  if c.rst then .next (resetEdge c s) else engineEdge s.pend (hostEdge c s)

/-- The state in which the next edge commits the command word `w`: `w` issued, its last engine cycle reached, and a
port cycle with neither reset nor access in front of the host's program (log entry 11). -/
def State.readyToCommit (w : Word) (s : State) : State :=
  { s.place w 1 with host := { s.host with program := .cycle BusCycle.idle :: s.host.program } }

end Sys2Proof.Machine
end

