-- ==== Sys2Proof/Machine/Step.lean ====
section
/-! DEFINITION. The step of the machine: one rising edge of `clk`, with the signals the host presents (R6, R60). -/

namespace Sys2Proof.Machine

/-- One step: one rising edge of `clk` (R60). -/
def step (s : State) : Host.Outcome State Fault Refusal := clockEdge s.host.signals s

/-- `s` with the command whose bits are `w` issued and ready to commit, so that the next step runs exactly it. The
engine fetches nothing (R22, R73): a command runs because it is in PEND (R46, R50). -/
def State.withFetchWord (s : State) (nbits w : Nat) : State := s.readyToCommit (tableWord nbits w)

end Sys2Proof.Machine
end

