-- ==== Sys2Proof/Machine/Assembler.lean ====
section
/-! DEFINITION. The host's assembly language (R90) and its pseudo-instructions (R91): what each statement assembles to,
as steps of the host agent, and a reader of its text form. Where R90 leaves the text form open the reader's choices
are log entry 17. The engine does not depend on this file. -/

namespace Sys2Proof.Machine

/-- A command statement (R90): a command of the engine, or `.word <value>`. -/
inductive Cmd where
  | instr (i : Instr)
  | word (v : Nat)
  deriving DecidableEq, Repr

/-- A host statement (R90) or pseudo-instruction (R91). -/
inductive Stmt where
  | command (c : Cmd)
  | wr (r : Reg) (v : Nat)
  | rd (r : Reg)
  | wait
  | run (c : Cmd)
  | seq (syms : List Nat)
  | seqlen (len : Nat) (syms : List Nat)
  | setres (m : Nat) (e : Int)
  | setopt (tol : Option (Nat × Int)) (tcr : Option Nat)
  | clrbusywr
  deriving DecidableEq, Repr

/-- `v` as a 32-bit value; none is an assembly error. -/
def wordOf (v : Nat) : Option Word := if v < 2 ^ 32 then some (BitVec.ofNat 32 v) else none

/-- The N-bit two's-complement field of `x` (R9 `enc_N`), defined only in its range; none is an assembly error. -/
def encField (n : Nat) (x : Int) : Option Nat :=
  if -(2 ^ (n - 1) : Int) ≤ x ∧ x < (2 ^ (n - 1) : Int) then some (enc n x).toNat else none

/-- The command word of a command statement (R90): "An operand out of its field's range is an assembly error". -/
def Cmd.wordOf (c : Cmd) : Option Word :=
  match c with
  | .instr i => if i.WellFormed then some (encode i) else none
  | .word v => Machine.wordOf v

/-- `wr <REG>, <value>`: the port cycle of `BusWrite(word(REG), value)` (R90). -/
def wrStep (r : Reg) (v : Word) : HostStep := .cycle (BusCycle.write r.addr v)

/-- `rd <REG>`: the port cycle of `BusRead(word(REG))` (R90). -/
def rdStep (r : Reg) : HostStep := .cycle (BusCycle.read r.addr)

/-- The value `(L << 24) + Σ (code(si) << 4i)` of the statements `seq` and `seqlen` (R91). -/
def seqValue (len : Nat) (syms : List Nat) : Nat :=
  (len <<< 24) + (syms.mapIdx (fun i c => c <<< (4 * i))).sum

/-- Every symbol is a number 0 to 15 (R90). -/
def codesFit (syms : List Nat) : Bool := syms.all symFits

/-- What a statement assembles to (R90, R91); none is an assembly error. -/
def Stmt.assemble (st : Stmt) : Option (List HostStep) :=
  match st with
  | .command c => c.wordOf.map (fun w => [wrStep .cmd w])
  | .wr r v => (wordOf v).map (fun w => [wrStep r w])
  | .rd r => some [rdStep r]
  | .wait => some [.wait]
  | .run c => c.wordOf.map (fun w => [wrStep .cmd w, .wait])
  | .seq syms =>
    if syms.length ≤ 6 && codesFit syms then
      (wordOf (seqValue syms.length syms)).map (fun w => [wrStep .seqIn w])
    else none
  | .seqlen len syms =>
    if len ≤ 7 && syms.length == 6 && codesFit syms then
      (wordOf (seqValue len syms)).map (fun w => [wrStep .seqIn w])
    else none
  | .setres m e =>
    if m < 2 ^ 64 then do
      let lo ← wordOf (m % 2 ^ 32)
      let hi ← wordOf (m / 2 ^ 32)
      let x ← encField 16 e
      let ex ← wordOf x
      pure [wrStep .resMLo lo, wrStep .resMHi hi, wrStep .resE ex]
    else none
  | .setopt tol tcrv => do
    let m ← wordOf ((tol.map Prod.fst).getD 0)
    let v ← wordOf (tcrv.getD 0)
    let x ← encField 8 ((tol.map Prod.snd).getD 0)
    let o ← wordOf (x + (tol.isSome.toNat <<< 8) + (tcrv.isSome.toNat <<< 9))
    pure [wrStep .tolM m, wrStep .tcrV v, wrStep .optCtl o]
  | .clrbusywr => some [wrStep .status 0x00002000#32]

/-- A program: its statements in order (R90). -/
def assemble (program : List Stmt) : Option (List HostStep) :=
  program.foldr (fun st rest => do
    let steps ← st.assemble
    let more ← rest
    pure (steps ++ more)) (some [])

/-- The machine after reset with a host program to run: how a program comes to run (log entry 5). -/
def State.withProgram (steps : List HostStep) (s : State) : State :=
  { s with host := { s.host with program := steps } }

/-! ### The text form (R90) -/

/-- A token of a line: a name or number, or a mark. -/
inductive Token where
  | name (text : List Char)
  | comma | lpar | rpar | equals | minus
  deriving DecidableEq, Repr

/-- A character of a name or a number. -/
def isNameChar (c : Char) : Bool := c.isAlphanum || c == '_' || c == '.'

/-- A name put in front of the tokens read so far, if it is not empty. `acc` is reversed. -/
def flushName (acc : List Char) (rest : List Token) : List Token :=
  if acc.isEmpty then rest else .name acc.reverse :: rest

/-- The tokens of a line up to its comment; names in lower case ("names are case-insensitive", R90). None where a
character belongs to no token. -/
def tokens : (acc : List Char) → List Char → Option (List Token)
  | acc, [] => some (flushName acc [])
  | acc, c :: cs =>
    if isNameChar c then tokens (c.toLower :: acc) cs
    else if c == ';' then some (flushName acc [])
    else
      match tokens [] cs with
      | none => none
      | some rest =>
        if c == ' ' || c == '\t' || c == '\r' then some (flushName acc rest)
        else if c == ',' then some (flushName acc (.comma :: rest))
        else if c == '(' then some (flushName acc (.lpar :: rest))
        else if c == ')' then some (flushName acc (.rpar :: rest))
        else if c == '=' then some (flushName acc (.equals :: rest))
        else if c == '-' then some (flushName acc (.minus :: rest))
        else none

/-- The value of a digit character in a base of at most 16 (letters in lower case). -/
def digitValue (base : Nat) (c : Char) : Option Nat :=
  let v := if c.isDigit then c.toNat - 48 else if 'a' ≤ c ∧ c ≤ 'f' then c.toNat - 87 else base
  if v < base then some v else none

/-- The digits of a number, `_` being "only a digit separator" (R8). -/
def digitsValue (base : Nat) : (acc : Nat) → List Char → Option Nat
  | acc, [] => some acc
  | acc, c :: cs =>
    if c == '_' then digitsValue base acc cs
    else
      match digitValue base c with
      | some v => digitsValue base (acc * base + v) cs
      | none => none

/-- A number: hexadecimal `0x...`, else decimal (R8). -/
def numberOf (text : List Char) : Option Nat :=
  match text with
  | [] => none
  | ['0', 'x'] => none
  | '0' :: 'x' :: cs => digitsValue 16 0 cs
  | c :: cs => if c.isDigit then digitsValue 10 0 (c :: cs) else none

/-- A symbol: a symbol name of R27 or a number (R90). -/
def symbolOf (text : List Char) : Option Nat :=
  match colorTable.findIdx? (fun row => row.name.toList == text) with
  | some s => some s
  | none => numberOf text

/-- The name of a register (R23) in lower case. -/
def Reg.name (r : Reg) : String :=
  match r with
  | .id => "id"
  | .cmd => "cmd"
  | .status => "status"
  | .seqIn => "seq_in"
  | .resMLo => "res_m_lo"
  | .resMHi => "res_m_hi"
  | .resE => "res_e"
  | .tolM => "tol_m"
  | .optCtl => "opt_ctl"
  | .tcrV => "tcr_v"
  | .rState => "r_state"
  | .specOhm => "spec_ohm"
  | .specTol => "spec_tol"
  | .specMin => "spec_min"
  | .specMax => "spec_max"
  | .normOut => "norm_out"
  | .qOut => "q_out"

/-- The register of a name (R23, R90). -/
def regOf (text : List Char) : Option Reg := allRegs.find? (fun r => r.name.toList == text)

/-- A signed number. -/
def intOf (ts : List Token) : Option Int :=
  match ts with
  | [.name n] => (numberOf n).map (fun v => (v : Int))
  | [.minus, .name n] => (numberOf n).map (fun v => -(v : Int))
  | _ => none

/-- Names separated by commas. -/
def namesOf : List Token → Option (List (List Char))
  | [] => some []
  | [.name n] => some [n]
  | .name n :: .comma :: .name n2 :: rest => (namesOf (.name n2 :: rest)).map (fun l => n :: l)
  | _ => none

/-- Symbols separated by commas. -/
def symbolsOf (ts : List Token) : Option (List Nat) := (namesOf ts).bind (fun l => allSome (l.map symbolOf))

/-- The command of a one-symbol lookup name (R90). -/
def lookupOf (head : List Char) (sym : Nat) : Option Instr :=
  if head == "lut.digit".toList then some (.lutDigit sym)
  else if head == "lut.digexp".toList then some (.lutDigexp sym)
  else if head == "lut.tol".toList then some (.lutTol sym)
  else if head == "lut.tcr".toList then some (.lutTcr sym)
  else none

/-- The command of a name without operands (R90). -/
def plainOf (head : List Char) : Option Instr :=
  if head == "nop".toList then some .nop
  else if head == "construct".toList then some .construct
  else if head == "determine".toList then some .determine
  else if head == "normalize".toList then some .normalize
  else if head == "lut.tolinv".toList then some .lutTolinv
  else if head == "lut.tcrinv".toList then some .lutTcrinv
  else none

/-- A command statement (R90). -/
def cmdOf (head : List Char) (args : List Token) : Option Cmd :=
  match args with
  | [] => (plainOf head).map .instr
  | [.name a] =>
    if head == ".word".toList then (numberOf a).map .word
    else (symbolOf a).bind (fun s => (lookupOf head s).map .instr)
  | [.name a, .comma, .name b] =>
    if head == "withcolor".toList then do
      let color ← symbolOf a
      let pos ← numberOf b
      pure (.instr (.withColor color pos))
    else none
  | [.name a, .comma, .name b, .comma, .name c] =>
    if head == "lut.matrix".toList then do
      let sym ← symbolOf a
      let pos ← numberOf b
      let cnt ← numberOf c
      pure (.instr (.lutMatrix sym pos cnt))
    else none
  | _ => none

/-- The operand `tcr=V` or `tcr=none` of `setopt` (R91). -/
def tcrArgOf (ts : List Token) : Option (Option Nat) :=
  match ts with
  | [.name k, .equals, .name v] =>
    if k == "tcr".toList then
      if v == "none".toList then some none else (numberOf v).map some
    else none
  | _ => none

/-- The operands of `setopt tol=(M,E), tcr=V` (R91). -/
def setoptOf (ts : List Token) : Option Stmt :=
  match ts with
  | .name k :: .equals :: .lpar :: .name m :: .comma :: .minus :: .name e :: .rpar :: .comma :: rest => do
    let mv ← numberOf m
    let ev ← numberOf e
    let v ← tcrArgOf rest
    if k == "tol".toList then some (.setopt (some (mv, -(ev : Int))) v) else none
  | .name k :: .equals :: .lpar :: .name m :: .comma :: .name e :: .rpar :: .comma :: rest => do
    let mv ← numberOf m
    let ev ← numberOf e
    let v ← tcrArgOf rest
    if k == "tol".toList then some (.setopt (some (mv, (ev : Int))) v) else none
  | .name k :: .equals :: .name n :: .comma :: rest => do
    let v ← tcrArgOf rest
    if k == "tol".toList && n == "none".toList then some (.setopt none v) else none
  | _ => none

/-- A statement from the tokens of its line (R90, R91). -/
def stmtOf (head : List Char) (args : List Token) : Option Stmt :=
  if head == "wr".toList then
    match args with
    | [.name r, .comma, .name v] => do
      let reg ← regOf r
      let value ← numberOf v
      pure (.wr reg value)
    | _ => none
  else if head == "rd".toList then
    match args with
    | [.name r] => (regOf r).map .rd
    | _ => none
  else if head == "wait".toList && args.isEmpty then some .wait
  else if head == "clrbusywr".toList && args.isEmpty then some .clrbusywr
  else if head == "run".toList then
    match args with
    | .name h :: rest => (cmdOf h rest).map .run
    | _ => none
  else if head == "seq".toList then (symbolsOf args).map .seq
  else if head == "seqlen".toList then
    match args with
    | .name l :: .comma :: rest => do
      let len ← numberOf l
      let syms ← symbolsOf rest
      pure (.seqlen len syms)
    | _ => none
  else if head == "setres".toList then
    match args with
    | .name m :: .comma :: rest => do
      let mv ← numberOf m
      let ev ← intOf rest
      pure (.setres mv ev)
    | _ => none
  else if head == "setopt".toList then setoptOf args
  else (cmdOf head args).map .command

/-- One line (R90: "One statement per line"): an empty line or a comment has no statement. -/
def lineOf (line : List Char) : Option (List Stmt) :=
  match tokens [] line with
  | none => none
  | some [] => some []
  | some (.name head :: args) => (stmtOf head args).map (fun st => [st])
  | some _ => none

/-- The lines of a text, split at line ends. -/
def linesOf : (acc : List Char) → List Char → List (List Char)
  | acc, [] => [acc.reverse]
  | acc, c :: cs => if c == '\n' then acc.reverse :: linesOf [] cs else linesOf (c :: acc) cs

/-- A program from its text (R90); none is an assembly error in some line. -/
def parseProgram (text : String) : Option (List Stmt) :=
  (linesOf [] text.toList).foldr (fun line rest => do
    let st ← lineOf line
    let more ← rest
    pure (st ++ more)) (some [])

/-- The host steps of a program text (R90, R91). -/
def assembleText (text : String) : Option (List HostStep) := (parseProgram text).bind assemble

end Sys2Proof.Machine
end

