-- ==== Sys2Proof/Safety.lean ====
section
/-! DEFINITION. The terms claims use: the legal resistor (R40), the slot roles of the matrix (R110), exact values as
rationals (R11), the invariant of every reachable state, and runs without reset. The machine does not use this file. -/

namespace Sys2Proof.Machine

/-- The number a decimal denotes (R11): M × 10^E. -/
def decimalValue (M : Nat) (E : Int) : ℚ := (M : ℚ) * (10 : ℚ) ^ E

/-- The number a digit list denotes, most significant digit first (R183). -/
def digitsNumber (digits : List Nat) : Nat := digits.foldl (fun acc d => 10 * acc + d) 0

/-- The role a slot has in a layout (R110). -/
inductive SlotRole where
  | zeroOhm | firstDigit | digit | exponent | tolerance | tcr
  deriving DecidableEq, Repr

/-- The slot roles per band count (R110), with the first digit of 3 to 6 bands apart (R113). -/
def slotRoles (cnt : Nat) : List SlotRole :=
  match cnt with
  | 1 => [.zeroOhm]
  | 3 => [.firstDigit, .digit, .exponent]
  | 4 => [.firstDigit, .digit, .exponent, .tolerance]
  | 5 => [.firstDigit, .digit, .digit, .exponent, .tolerance]
  | 6 => [.firstDigit, .digit, .digit, .exponent, .tolerance, .tcr]
  | _ => []

/-- The symbols a role admits, by number (R110, R112, R113). -/
def SlotRole.admits (role : SlotRole) (sym : Nat) : Prop :=
  match role with
  | .zeroOhm => sym = 0
  | .firstDigit => 1 ≤ sym ∧ sym ≤ 9
  | .digit => sym ≤ 9
  | .exponent => sym ≤ 12
  | .tolerance => (1 ≤ sym ∧ sym ≤ 8) ∨ sym = 10 ∨ sym = 11
  | .tcr => sym ≤ 8

/-- The Band Validity Matrix as a relation (R110): the triple is a cell, and its slot's role admits the symbol. -/
def Admitted (sym pos cnt : Nat) : Prop := ∃ role, (slotRoles cnt)[pos]? = some role ∧ role.admits sym

/-- What R holds (R40): no resistor, as after reset, or a band sequence legal at every position, with 0 in the slots
at and beyond the count (D39). -/
def Resistor.Legal (r : Resistor) : Prop :=
  r = Resistor.empty ∨
    (r.valid = true ∧ r.count.toNat ∈ Config.bandCounts ∧
      (∀ i, i < r.count.toNat → legal (r.band i) i r.count.toNat = true) ∧
      (∀ i, r.count.toNat ≤ i → r.band i = 0))

/-- No per-command flag is set: bits [12:2] of STATUS are 0 (R26). -/
def Status.NoFlags (st : Status) : Prop := ∀ c : Cause, c ≠ .eBusywr → st.flag c = false

/-- A value NORM_OUT takes (R43): 0, or N_VALID with 1 to 3 digits, an exponent in [−3, 9], digits beyond N and the
reserved bits 0. -/
def NormOutForm (w : Word) : Prop :=
  w = 0 ∨
    (w.getLsbD 31 = true ∧ w.extractLsb 30 24 = 0 ∧ w.extractLsb 15 14 = 0 ∧
      1 ≤ (w.extractLsb 13 12).toNat ∧ (w.extractLsb 13 12).toNat ≤ 3 ∧
      -3 ≤ (w.extractLsb 23 16).toInt ∧ (w.extractLsb 23 16).toInt ≤ 9 ∧
      (w.extractLsb 3 0).toNat ≤ 9 ∧ (w.extractLsb 7 4).toNat ≤ 9 ∧ (w.extractLsb 11 8).toNat ≤ 9 ∧
      ((w.extractLsb 13 12).toNat < 2 → (w.extractLsb 7 4).toNat = 0) ∧
      ((w.extractLsb 13 12).toNat < 3 → (w.extractLsb 11 8).toNat = 0))

/-- A value Q_OUT takes (R44): 0, or Q_VALID with the reserved bits 0. -/
def QOutForm (w : Word) : Prop := w = 0 ∨ (w.getLsbD 31 = true ∧ w.extractLsb 30 16 = 0)

/-- What holds of the machine at reset and after every step. -/
structure State.Inv (s : State) : Prop where
  /-- R holds a legal resistor or none (R40, R146, R223). -/
  resistor : s.resistor.Legal
  /-- PEND is non-empty exactly while BUSY is 1 (R46). -/
  busy : s.status.busy = s.pend.isSome
  /-- While BUSY: OK 0, bits [12:2] 0, ERR_POS 0 (R275). -/
  issued : s.status.busy = true → s.status.ok = false ∧ s.status.errPos = 0 ∧ s.status.NoFlags
  /-- ERR_POS is 0 when E_COLOR is 0 (R26). -/
  errPos : s.status.eColor = false → s.status.errPos = 0
  /-- OK excludes every per-command flag (R26, R50). -/
  ok : s.status.ok = true → s.status.NoFlags
  /-- The snapshot equals the live registers (R51), and the commit is at least one cycle away (R277). -/
  pend : ∀ p, s.pend = some p → p.snap = s.operands ∧ 1 ≤ p.remaining
  /-- NORM_OUT has the form of R43. -/
  normOut : NormOutForm s.normOut
  /-- Q_OUT has the form of R44. -/
  qOut : QOutForm s.qOut

/-- The host presents no reset in the rest of its program. -/
def HostAgent.NeverResets (h : HostAgent) : Prop := ∀ c : BusCycle, HostStep.cycle c ∈ h.program → c.rst = false

/-- A word address of CMD or of an operand register (R63: words 1 and 3 to 9). -/
def DroppableWord (a : Addr) : Prop := a.toNat = 1 ∨ (3 ≤ a.toNat ∧ a.toNat ≤ 9)

/-- The tolerance operand names the symbol `T`, or is absent (R180, R181). -/
def Operands.TolIs (o : Operands) (T : Option Nat) : Prop :=
  (o.tolPresent = false ∧ T = none) ∨
    (o.tolPresent = true ∧ T.isSome = true ∧ tolSym o.tolCoeff o.tolExp = T)

/-- The TCR operand names the symbol `C`, or is absent (R180, R182). -/
def Operands.TcrIs (o : Operands) (C : Option Nat) : Prop :=
  (o.tcrPresent = false ∧ C = none) ∨ (o.tcrPresent = true ∧ C.isSome = true ∧ symOfTcr o.tcrValue = C)

/-- Two operand sets agree on everything DETERMINE reads: the value registers of an absent operand are not read
(R180). -/
def Operands.SameForDetermine (o o' : Operands) : Prop :=
  o.resM = o'.resM ∧ o.resE = o'.resE ∧ o.tolPresent = o'.tolPresent ∧ o.tcrPresent = o'.tcrPresent ∧
    (o.tolPresent = true → o.tolM = o'.tolM ∧ o.tolExp = o'.tolExp) ∧
    (o.tcrPresent = true → o.tcrV = o'.tcrV)

/-- The flags a command's commit can set (R241). -/
def commandFlags (i : Instr) : List Cause :=
  match i with
  | .nop => []
  | .construct => [.eCount, .eColor]
  | .determine => [.eTol, .eTcr, .eNotrep, .eMisstol, .eNolayout]
  | .withColor _ _ => [.eNores, .eBounds, .eColor]
  | .normalize => [.eNotrep]
  | .lutDigit _ => [.eUndef]
  | .lutDigexp _ => [.eUndef]
  | .lutTol _ => [.eUndef]
  | .lutTcr _ => [.eUndef]
  | .lutTolinv => [.eUndef]
  | .lutTcrinv => [.eUndef]
  | .lutMatrix _ _ _ => []

/-- The commands that can write R (R40). -/
def commandWritesR (i : Instr) : Bool :=
  match i with
  | .construct => true
  | .determine => true
  | .withColor _ _ => true
  | .nop => false
  | .normalize => false
  | .lutDigit _ => false
  | .lutDigexp _ => false
  | .lutTol _ => false
  | .lutTcr _ => false
  | .lutTolinv => false
  | .lutTcrinv => false
  | .lutMatrix _ _ _ => false

/-- The lookup commands, which alone write Q_OUT (R44). -/
def isLookupCommand (i : Instr) : Bool :=
  match i with
  | .lutDigit _ => true
  | .lutDigexp _ => true
  | .lutTol _ => true
  | .lutTcr _ => true
  | .lutTolinv => true
  | .lutTcrinv => true
  | .lutMatrix _ _ _ => true
  | .nop => false
  | .construct => false
  | .determine => false
  | .withColor _ _ => false
  | .normalize => false

end Sys2Proof.Machine
end

