-- ==== Sys2Proof/Certificates/Slice0/Obligations.lean ====
section
/-! DEFINITION. The statements for the provers, each formalising rules of spec/. A next state is written as a record
update of the state before, so that every field not named is unchanged: that is the statement's frame. -/

open Sys2Proof Sys2Proof.Machine

/-! ### Encoding -/

/-- R80 to R86, R90: decoding the encoding of a well-formed command gives the command back. -/
def Obligations.DecodeOfEncode : Prop :=
  ∀ i : Instr, i.WellFormed = true → decode (encode i) = .ok i

/-- R81 to R86, R90: a word that decodes is the encoding of the command it decodes to, which is well formed: no bit
of a legal word is dropped, over all 2^32 words. -/
def Obligations.EncodeOfDecode : Prop :=
  ∀ (w : Word) (i : Instr), decode w = .ok i → i.WellFormed = true ∧ encode i = w

/-- R87, R88: the two kinds of illegal words, by opcode and by must-be-zero bits, and what executing one does. The
names of the two errors are the model's (log entry 19). What executing one does is R232 and R50. -/
def Obligations.IllegalWordsAreTheTwoKinds : Prop :=
  ∀ w : Word,
    let op := w.toNat % 256
    (decode w = .error (.unlistedOpcode op) ↔ (0x05 ≤ op ∧ op ≤ 0x0F) ∨ 0x17 ≤ op) ∧
    (decode w = .error (.mustBeZero op) ↔
      ((op = 0 ∨ op = 1 ∨ op = 2 ∨ op = 4 ∨ op = 0x14 ∨ op = 0x15) ∧ w.extractLsb 31 8 ≠ 0) ∨
      ((op = 0x10 ∨ op = 0x11 ∨ op = 0x12 ∨ op = 0x13) ∧ w.extractLsb 31 12 ≠ 0) ∨
      (op = 3 ∧ w.extractLsb 31 15 ≠ 0) ∨
      (op = 0x16 ∧ (w.extractLsb 31 19 ≠ 0 ∨ w.getLsbD 15 = true))) ∧
    (∀ e, decode w = .error e → e = .unlistedOpcode op ∨ e = .mustBeZero op) ∧
    (∀ e, decode w = .error e → ∀ s : State,
      execWord w s = .next { s with
        status := { s.status with eCmd := true, errPos := 0, ok := false, busy := false }, pend := none })

/-- R85: "At most one row matches any word". -/
def Obligations.AtMostOneRowMatches : Prop :=
  ∀ w : Word, (opTable.filter (fun row => row.matchesWord w)).length ≤ 1

/-- R85, R90: words written out from the encoding tables decode to the commands they stand for. -/
def Obligations.SpecWordsDecode : Prop :=
  decode 0x00000000#32 = .ok .nop ∧
  decode 0x00000001#32 = .ok .construct ∧
  decode 0x00000002#32 = .ok .determine ∧
  decode 0x00000004#32 = .ok .normalize ∧
  decode 0x00005203#32 = .ok (.withColor 2 5) ∧
  decode 0x00000410#32 = .ok (.lutDigit 4) ∧
  decode 0x00000C11#32 = .ok (.lutDigexp 12) ∧
  decode 0x00000A12#32 = .ok (.lutTol 10) ∧
  decode 0x00000013#32 = .ok (.lutTcr 0) ∧
  decode 0x00000014#32 = .ok .lutTolinv ∧
  decode 0x00000015#32 = .ok .lutTcrinv ∧
  decode 0x00032C16#32 = .ok (.lutMatrix 12 2 3)

/-- R90: a command statement assembles to the write of its word to CMD; out of range it is an assembly error. The
abstract syntax of statements is the model's (log entry 17). -/
def Obligations.CommandStatementWritesCmd : Prop :=
  ∀ i : Instr,
    (i.WellFormed = true → (Stmt.command (.instr i)).assemble
      = some [.cycle { rst := false, wr := true, rd := false, addr := 1, wdata := encode i }]) ∧
    (i.WellFormed = false → (Stmt.command (.instr i)).assemble = none)

/-- R91, R29, R30: `setres M, E` assembles to three writes which, made while idle, make the resistance operand exactly
(M, E); a number outside the fields is an assembly error. That a number outside its field is an assembly error here
too is the model's choice (log entry 17). -/
def Obligations.SetresDeliversDecimal : Prop :=
  ∀ (M : Nat) (E : Int),
    (M < 2 ^ 64 → -2 ^ 15 ≤ E → E < 2 ^ 15 →
      ∃ lo hi ex : Word, (Stmt.setres M E).assemble = some [wrStep .resMLo lo, wrStep .resMHi hi, wrStep .resE ex] ∧
        ∀ s : State, s.status.busy = false →
          let o := (busWrite 6 ex (busWrite 5 hi (busWrite 4 lo s))).operands
          o.resM.toNat = M ∧ o.resE.toInt = E) ∧
    (2 ^ 64 ≤ M ∨ E < -2 ^ 15 ∨ 2 ^ 15 ≤ E → (Stmt.setres M E).assemble = none)

/-- R91, R28: `seq s0, …` assembles to one write of SEQ_IN which, made while idle, gives CONSTRUCT that length and
those symbols. The abstract syntax of statements is the model's (log entry 17). -/
def Obligations.SeqDeliversSequence : Prop :=
  ∀ syms : List Nat, syms.length ≤ 6 → (∀ c ∈ syms, c < 16) →
    ∃ w : Word, (Stmt.seq syms).assemble = some [wrStep .seqIn w] ∧
      ∀ s : State, s.status.busy = false →
        (busWrite 3 w s).operands.seqLen = syms.length ∧
        ∀ i, i < syms.length → (busWrite 3 w s).operands.seqSyms.getD i 0 = syms.getD i 0

/-! ### The step -/

/-- R50, R85, R274: in the cycle in which a pending command commits, the step runs the command its word decodes to, on
the state with the host's access of that cycle made. The fields `host`, `cycle` and `remaining` are the model's own
(log entries 1, 4, 5, 6, 7). -/
def Obligations.StepRunsDecodedCommand : Prop :=
  ∀ (s : State) (p : Pending) (i : Instr),
    s.pend = some p → p.remaining ≤ 1 → s.host.signals.rst = false → decode p.word = .ok i →
      step s = exec i
        { (if s.host.signals.wr then busWrite s.host.signals.addr s.host.signals.wdata s else s) with
          host := s.host.advance (if s.host.signals.rd then some (busRead s.host.signals.addr s) else none)
          cycle := s.cycle + 1 }

/-- R232: in the cycle in which an illegal word commits, with no host write, the step sets E_CMD and nothing else of
the engine changes but the end of the command. The fields `host`, `cycle` and `remaining` are the model's own (log
entries 1, 4, 5, 6). -/
def Obligations.StepOfIllegalWord : Prop :=
  ∀ (s : State) (p : Pending) (e : DecodeError),
    s.pend = some p → p.remaining ≤ 1 → s.host.signals.rst = false → s.host.signals.wr = false →
    decode p.word = .error e →
      step s = .next { s with
        status := { s.status with eCmd := true, errPos := 0, ok := false, busy := false }
        pend := none
        host := s.host.advance (if s.host.signals.rd then some (busRead s.host.signals.addr s) else none)
        cycle := s.cycle + 1 }

/-- R247, R278: no command and no cycle ever stops the machine. -/
def Obligations.NothingStopsTheMachine : Prop :=
  (∀ (i : Instr) (s : State), ∃ t, exec i s = .next t) ∧ (∀ s : State, ∃ t, step s = .next t)

/-- R271, R270: a cycle with `rst` = 1 gives the engine's reset values whatever was pending, and ignores the host's
access; a read returns the free value. The fields `host` and `cycle`, and the value a read returns, are the model's
(log entries 3 to 6). -/
def Obligations.ResetWins : Prop :=
  ∀ s : State, s.host.signals.rst = true →
    step s = .next
      { operands := { seqIn := 0, resMLo := 0, resMHi := 0, resE := 0, tolM := 0, optCtl := 0, tcrV := 0 }
        resistor := { valid := false, count := 0, bands := #v[0, 0, 0, 0, 0, 0] }
        normOut := 0
        qOut := 0
        status :=
          { busy := false, ok := false, eCmd := false, eCount := false, eColor := false, eTol := false, eTcr := false,
            eNotrep := false, eMisstol := false, eNolayout := false, eBounds := false, eNores := false,
            eUndef := false, eBusywr := false, errPos := 0 }
        pend := none
        host := s.host.advance (if s.host.signals.rd then some (Config.resetReadData s.cycle) else none)
        cycle := s.cycle + 1 }

/-- R55, R24, R34: after reset every word of the port reads 0 but ID, R holds no resistor and PEND is empty. -/
def Obligations.ResetValues : Prop :=
  (∀ a : Addr, busRead a State.reset = if a = 0 then 0x54530007#32 else 0#32) ∧
  State.reset.resistor = { valid := false, count := 0, bands := #v[0, 0, 0, 0, 0, 0] } ∧
  State.reset.pend = none ∧ busyPin State.reset = false

/-- R255, R278: an idle engine changes no state until the host writes. The fields `host` and `cycle` are the model's
own (log entries 4 to 6). -/
def Obligations.IdleEngineKeepsItsState : Prop :=
  ∀ s : State, s.Inv → s.status.busy = false → s.host.signals.rst = false → s.host.signals.wr = false →
    step s = .next { s with
      host := s.host.advance (if s.host.signals.rd then some (busRead s.host.signals.addr s) else none)
      cycle := s.cycle + 1 }

/-- R50, R51, R277: the write of `w` to CMD while idle loads PEND with the word and the operand snapshot, sets BUSY,
clears OK, the per-command flags and ERR_POS, keeps E_BUSYWR, and fixes a latency of at least one cycle. The fields
`host`, `cycle` and `remaining` are the model's own (log entries 1, 4, 5). -/
def Obligations.CmdWriteIssues : Prop :=
  ∀ (s : State) (w : Word), s.Inv → s.status.busy = false →
    s.host.signals = { rst := false, wr := true, rd := false, addr := 1, wdata := w } →
    ∃ n : Nat, 1 ≤ n ∧ step s = .next { s with
      pend := some { word := w, snap := s.operands, remaining := n }
      status :=
        { busy := true, ok := false, eCmd := false, eCount := false, eColor := false, eTol := false, eTcr := false,
          eNotrep := false, eMisstol := false, eNolayout := false, eBounds := false, eNores := false,
          eUndef := false, eBusywr := s.status.eBusywr, errPos := 0 }
      host := s.host.advance none
      cycle := s.cycle + 1 }

/-- R278, R277, R275, R63: an issued command commits after exactly the cycles it has left, whatever the host does
short of reset, with the effects its word has on the state at hand; until then the result registers stay. The
countdown `remaining` is the model's own (log entry 1). The host is a finite list of port cycles, the model's choice
(log entry 5). -/
def Obligations.PendingCommandCommitsOnTime : Prop :=
  ∀ (s : State) (p : Pending), s.Inv → s.pend = some p → s.host.NeverResets →
    (∀ k, k < p.remaining → ∃ u, Sys2Proof.core.run k s = .next u ∧ u.status.busy = true ∧
      u.resistor = s.resistor ∧ u.normOut = s.normOut ∧ u.qOut = s.qOut ∧ u.operands = s.operands) ∧
    (∃ r t, execWord p.word s = .next r ∧ Sys2Proof.core.run p.remaining s = .next t ∧
      t.resistor = r.resistor ∧ t.normOut = r.normOut ∧ t.qOut = r.qOut ∧ t.operands = s.operands ∧
      t.pend = none ∧ { t.status with eBusywr := false } = { r.status with eBusywr := false })

/-- R64: a read and a write in one cycle: the write is performed as without the read (R62), and the read carries the
value before it. `h` is any host that presents the same write without the read. The field `host` is the model's own
(log entries 5, 6). -/
def Obligations.ReadBeforeWriteInOneCycle : Prop :=
  ∀ (s : State) (a : Addr) (v : Word) (h : HostAgent),
    s.host.signals = { rst := false, wr := true, rd := true, addr := a, wdata := v } →
    h.signals = { rst := false, wr := true, rd := false, addr := a, wdata := v } →
    ∃ t u, step s = .next t ∧ step { s with host := h } = .next u ∧
      t.host = s.host.advance (some (busRead a s)) ∧ t = { u with host := t.host } ∧
      (s.pend = none → t = { busWrite a v s with host := t.host, cycle := s.cycle + 1 })

/-- R61: a read changes nothing of the engine, pending command or not: the cycle ends as an idle one does, but for
what the host received. The field `host` is the model's own (log entries 5, 6). -/
def Obligations.ReadsHaveNoSideEffect : Prop :=
  ∀ (s : State) (a : Addr) (v : Word),
    s.host.signals = { rst := false, wr := false, rd := true, addr := a, wdata := v } →
    ∃ t u, step s = .next t ∧ step { s with host := HostAgent.idle } = .next u ∧
      t.host = s.host.advance (some (busRead a s)) ∧ t = { u with host := t.host }

/-- R274, R245, R63: a CMD or operand write in the very cycle in which the command commits is dropped too, and sets
E_BUSYWR beside the flags the command sets. The countdown `remaining` is the model's own (log entry 1). -/
def Obligations.WriteInCommitCycleIsDropped : Prop :=
  ∀ (s : State) (p : Pending) (i : Instr) (c : BusCycle),
    s.Inv → s.pend = some p → p.remaining = 1 → decode p.word = .ok i →
    s.host.signals = c → c.rst = false → c.wr = true → DroppableWord c.addr →
    ∃ t u, step s = .next t ∧ exec i s = .next u ∧
      t.operands = s.operands ∧ t.pend = none ∧ t.resistor = u.resistor ∧ t.normOut = u.normOut ∧
      t.qOut = u.qOut ∧ t.status = { u.status with eBusywr := true }

/-- R91, R273: `wait` goes on exactly when it has read STATUS with BUSY = 0. The host agent that runs `wait` is the
model's own (log entry 5). That a `wait` cycle carries no reset is the model's choice (log entry 20). -/
def Obligations.WaitPollsUntilIdle : Prop :=
  ∀ (s : State) (rest : List HostStep), s.host.program = .wait :: rest →
    ∃ t, step s = .next t ∧ t.host.rdata = some s.status.word ∧ t.host.recorded = s.host.recorded ∧
      (s.status.busy = true → t.host.program = .wait :: rest) ∧
      (s.status.busy = false → t.host.program = rest)

/-! ### The register port -/

/-- R62, R63: what a host write does at each word address, idle and busy. The issue is R50, R51 and R277; its
countdown `remaining` is the model's own field (log entry 1). -/
def Obligations.BusWriteMap : Prop :=
  ∀ (s : State) (a : Addr) (v : Word),
    (s.status.busy = true → DroppableWord a →
      busWrite a v s = { s with status := { s.status with eBusywr := true } }) ∧
    (s.status.busy = false → a = 1 → ∃ n : Nat, 1 ≤ n ∧
      busWrite a v s = { s with
        pend := some { word := v, snap := s.operands, remaining := n }
        status :=
          { busy := true, ok := false, eCmd := false, eCount := false, eColor := false, eTol := false,
            eTcr := false, eNotrep := false, eMisstol := false, eNolayout := false, eBounds := false,
            eNores := false, eUndef := false, eBusywr := s.status.eBusywr, errPos := 0 } }) ∧
    (a = 2 → busWrite a v s =
      { s with status := { s.status with eBusywr := if v.getLsbD 13 then false else s.status.eBusywr } }) ∧
    (s.status.busy = false → a = 3 →
      busWrite a v s = { s with operands := { s.operands with seqIn := v.extractLsb 26 0 } }) ∧
    (s.status.busy = false → a = 4 → busWrite a v s = { s with operands := { s.operands with resMLo := v } }) ∧
    (s.status.busy = false → a = 5 → busWrite a v s = { s with operands := { s.operands with resMHi := v } }) ∧
    (s.status.busy = false → a = 6 →
      busWrite a v s = { s with operands := { s.operands with resE := v.extractLsb 15 0 } }) ∧
    (s.status.busy = false → a = 7 → busWrite a v s = { s with operands := { s.operands with tolM := v } }) ∧
    (s.status.busy = false → a = 8 →
      busWrite a v s = { s with operands := { s.operands with optCtl := v.extractLsb 9 0 } }) ∧
    (s.status.busy = false → a = 9 → busWrite a v s = { s with operands := { s.operands with tcrV := v } }) ∧
    (a ≠ 2 → ¬ DroppableWord a → busWrite a v s = s)

/-- R28 to R34: an operand register written while idle reads back what was written, its reserved bits 0; every other
word of the port reads as before. -/
def Obligations.OperandWriteThenRead : Prop :=
  ∀ (s : State) (a : Addr) (v : Word), s.status.busy = false → 3 ≤ a.toNat → a.toNat ≤ 9 →
    (busRead a (busWrite a v s) =
      if a = 3 then v &&& 0x07FFFFFF#32 else if a = 6 then v &&& 0x0000FFFF#32
      else if a = 8 then v &&& 0x000003FF#32 else v) ∧
    (∀ b : Addr, b ≠ a → busRead b (busWrite a v s) = busRead b s)

/-- R24, R25, R34: ID reads its constant and ignores writes, CMD reads 0; the reserved words read 0 and ignore writes
without E_BUSYWR, busy or not; the reserved bits of every register read 0, whatever was written. -/
def Obligations.FixedAndReservedWords : Prop :=
  ∀ (s : State) (v : Word),
    (busRead 0 s = 0x54530007#32 ∧ busWrite 0 v s = s) ∧ busRead 1 s = 0 ∧
    (∀ a : Addr, (10 ≤ a.toNat ∧ a.toNat ≤ 15) ∨ 23 ≤ a.toNat → busRead a s = 0 ∧ busWrite a v s = s) ∧
    (busRead 2 s).extractLsb 31 19 = 0 ∧ (busRead 2 s).extractLsb 15 14 = 0 ∧
    (busRead 3 s).extractLsb 31 27 = 0 ∧ (busRead 6 s).extractLsb 31 16 = 0 ∧ (busRead 8 s).extractLsb 31 10 = 0 ∧
    (busRead 16 s).extractLsb 30 27 = 0 ∧
    (busRead 17 s).extractLsb 30 24 = 0 ∧ (busRead 17 s).extractLsb 15 10 = 0 ∧
    (busRead 18 s).extractLsb 30 25 = 0 ∧ (busRead 18 s).extractLsb 15 12 = 0 ∧
    (s.Inv → (busRead 21 s).extractLsb 30 24 = 0 ∧ (busRead 21 s).extractLsb 15 14 = 0 ∧
      (busRead 22 s).extractLsb 30 16 = 0)

/-- R26, R240: each flag stands at the bit of its cause code in STATUS, BUSY at 0, OK at 1, ERR_POS in [18:16], and
the reserved bits read 0. -/
def Obligations.StatusWordLayout : Prop :=
  ∀ s : State,
    (∀ c : Cause, (busRead 2 s).getLsbD c.code = s.status.flag c) ∧
    (busRead 2 s).getLsbD 0 = s.status.busy ∧ (busRead 2 s).getLsbD 1 = s.status.ok ∧
    (busRead 2 s).extractLsb 18 16 = s.status.errPos ∧
    (busRead 2 s).extractLsb 15 14 = 0 ∧ (busRead 2 s).extractLsb 31 19 = 0

/-- R275: while a command is pending STATUS reads BUSY = 1, OK = 0, flags [12:2] = 0 and ERR_POS = 0, and the result
registers keep their values until the commit. The countdown `remaining` is the model's own (log entry 1). The spec
marks R275 as derived from R50. -/
def Obligations.OldValuesWhileBusy : Prop :=
  ∀ s : State, s.Inv → s.status.busy = true →
    busRead 2 s = (if s.status.eBusywr then 0x00002001#32 else 0x00000001#32) ∧
    (∀ p t, s.pend = some p → 1 < p.remaining → s.host.signals.rst = false → step s = .next t →
      ∀ a : Addr, 16 ≤ a.toNat → busRead a t = busRead a s)

/-- R41, R145: R_STATE shows the bands below the count, the count and VALID; 0 when there is no resistor. -/
def Obligations.RStateShowsBands : Prop :=
  busRead 16 State.reset = 0 ∧
  ∀ s : State,
    (s.resistor.valid = false → busRead 16 s = 0) ∧
    (s.resistor.valid = true →
      (busRead 16 s).getLsbD 31 = true ∧ (busRead 16 s).extractLsb 30 27 = 0 ∧
      (busRead 16 s).extractLsb 26 24 = s.resistor.count ∧
      ∀ i, i < 6 → ((busRead 16 s).extractLsb' (4 * i) 4).toNat
        = if i < s.resistor.count.toNat then s.resistor.band i else 0)

/-- R65: a byte-addressed bridge maps byte offset 4a + j to bits [8j+7:8j] of word a. -/
def Obligations.BridgeIsLittleEndian : Prop :=
  ∀ (s : State) (a : Addr),
    busRead a s = bridgeByte (a ++ 3#2) s ++ bridgeByte (a ++ 2#2) s ++ bridgeByte (a ++ 1#2) s ++ bridgeByte (a ++ 0#2) s

/-! ### Whole-machine rules -/

/-- R40, R43, R44, R46, R51, R26, R275, R146, R223: every step keeps the invariant, from every state that has it. The
clause on `remaining` is about the model's own field (log entry 1). -/
def Obligations.StepKeepsInvariant : Prop :=
  ∀ s t : State, s.Inv → step s = .next t → t.Inv

/-- R55: the reset state has the invariant. -/
def Obligations.ResetHasInvariant : Prop := State.reset.Inv

/-- R26, R63: E_BUSYWR is set only by a dropped write, and cleared only by reset or by a write of 1 to STATUS bit 13. -/
def Obligations.BusywrIsSticky : Prop :=
  ∀ s t : State, step s = .next t →
    (s.status.eBusywr = true → t.status.eBusywr = false →
      s.host.signals.rst = true ∨
        (s.host.signals.wr = true ∧ s.host.signals.addr = 2 ∧ s.host.signals.wdata.getLsbD 13 = true)) ∧
    (s.status.eBusywr = false → t.status.eBusywr = true →
      s.host.signals.rst = false ∧ s.host.signals.wr = true ∧ s.status.busy = true ∧
        DroppableWord s.host.signals.addr)

/-- R40: only reset and the commit of a successful CONSTRUCT, DETERMINE or WITH_COLOR change R. The countdown
`remaining` is the model's own (log entry 1). -/
def Obligations.OnlySuccessfulCommandsWriteR : Prop :=
  ∀ s t : State, step s = .next t → t.resistor ≠ s.resistor →
    s.host.signals.rst = true ∨
      ∃ p i, s.pend = some p ∧ p.remaining ≤ 1 ∧ decode p.word = .ok i ∧ commandWritesR i = true ∧ t.status.ok = true

/-- R43, R44: only reset and NORMALIZE change NORM_OUT; only reset and a lookup command change Q_OUT. -/
def Obligations.ResultRegistersHaveOneWriter : Prop :=
  ∀ s t : State, step s = .next t → s.host.signals.rst = false →
    (t.normOut ≠ s.normOut → ∃ p, s.pend = some p ∧ decode p.word = .ok .normalize) ∧
    (t.qOut ≠ s.qOut → ∃ p i, s.pend = some p ∧ decode p.word = .ok i ∧ isLookupCommand i = true)

/-- R21, R50: no command writes an operand register, E_BUSYWR, or the host; every command ends with BUSY 0 and PEND
empty. The clauses on `host` and `cycle` are about the model's own fields (log entries 4, 5), not about R21 or R50. -/
def Obligations.CommandsLeaveOperandsAlone : Prop :=
  ∀ (i : Instr) (s t : State), exec i s = .next t →
    t.operands = s.operands ∧ t.status.eBusywr = s.status.eBusywr ∧ t.host = s.host ∧ t.cycle = s.cycle ∧
      t.status.busy = false ∧ t.pend = none

/-- R244, R50: a failing command, illegal words among them, leaves R, the operands and E_BUSYWR as they were and
ends; NORM_OUT is cleared exactly by NORMALIZE and Q_OUT exactly by a lookup command. The rest of STATUS is free
here: which flags a commit can set is CommandFlagMatrix, so R244's 'the STATUS fields its rule names' is stated
there. The fields `host` and `cycle` are the model's own (log entries 4, 5). -/
def Obligations.FailingCommandsHaveNoPartialEffect : Prop :=
  ∀ (w : Word) (s t : State), execWord w s = .next t → t.status.ok = false →
    t = { s with
      status := { t.status with eBusywr := s.status.eBusywr }
      normOut := if (decode w).toOption = some .normalize then 0 else s.normOut
      qOut := if (decode w).toOption.any isLookupCommand then 0 else s.qOut
      pend := none }

/-- R241: a command's commit can set only the flags of its row. The spec marks R241 as derived from R240. -/
def Obligations.CommandFlagMatrix : Prop :=
  (∀ (i : Instr) (s t : State) (c : Cause), s.resistor.Legal → s.status.NoFlags → exec i s = .next t →
    c ≠ .eBusywr → t.status.flag c = true → c ∈ commandFlags i) ∧
  (∀ (w : Word) (e : DecodeError) (s t : State) (c : Cause), s.status.NoFlags → decode w = .error e →
    execWord w s = .next t → c ≠ .eBusywr → (t.status.flag c = true ↔ c = .eCmd))

/-- R243: one commit sets several flags only in DETERMINE, and only among E_TOL, E_TCR and E_NOTREP. -/
def Obligations.OnlyDetermineIsComposite : Prop :=
  ∀ (i : Instr) (s t : State) (c d : Cause), s.status.NoFlags → exec i s = .next t →
    c ≠ .eBusywr → d ≠ .eBusywr → c ≠ d → t.status.flag c = true → t.status.flag d = true →
      i = .determine ∧ c ∈ [Cause.eTol, Cause.eTcr, Cause.eNotrep]

/-- R242, R50: after a commit either OK is 1 and no per-command flag is set, or OK is 0 and at least one is. -/
def Obligations.EveryCommitReports : Prop :=
  ∀ (w : Word) (s t : State), s.status.NoFlags → execWord w s = .next t →
    (t.status.ok = true ∧ t.status.NoFlags) ∨
      (t.status.ok = false ∧ ∃ c : Cause, c ≠ .eBusywr ∧ t.status.flag c = true)

/-! ### Control and lookup commands -/

/-- R230: NOP has no effect but to report success. -/
def Obligations.NopResult : Prop :=
  ∀ s : State, exec .nop s = .next { s with status := { s.status with ok := true, busy := false }, pend := none }

/-- R120: the digit of a symbol 0 to 9; E_UNDEF for every other code. The table's values are those of the default
COLOR_TABLE (log entry 2, a DESIGN CHOICE); the codes from 16 on, which no word holds, are log entry 13. -/
def Obligations.LutDigitResult : Prop :=
  ∀ (s : State) (sym : Nat),
    (sym ≤ 9 → exec (.lutDigit sym) s = .next { s with
      qOut := 0x80000000#32 + BitVec.ofNat 32 sym
      status := { s.status with ok := true, busy := false }, pend := none }) ∧
    (10 ≤ sym → exec (.lutDigit sym) s = .next { s with
      qOut := 0
      status := { s.status with eUndef := true, errPos := 0, ok := false, busy := false }, pend := none })

/-- R121: the exponent of a symbol, the digits to themselves and Gold, Silver, Pink to −1, −2, −3 in 16-bit two's
complement; E_UNDEF for a non-symbol. The table's values are those of the default COLOR_TABLE (log entry 2, a DESIGN
CHOICE); the codes from 16 on, which no word holds, are log entry 13. -/
def Obligations.LutDigexpResult : Prop :=
  ∀ (s : State) (sym : Nat),
    (∀ q : Nat, (sym ≤ 9 ∧ q = sym) ∨ (sym = 10 ∧ q = 0xFFFF) ∨ (sym = 11 ∧ q = 0xFFFE) ∨ (sym = 12 ∧ q = 0xFFFD) →
      exec (.lutDigexp sym) s = .next { s with
        qOut := 0x80000000#32 + BitVec.ofNat 32 q
        status := { s.status with ok := true, busy := false }, pend := none }) ∧
    (13 ≤ sym → exec (.lutDigexp sym) s = .next { s with
      qOut := 0
      status := { s.status with eUndef := true, errPos := 0, ok := false, busy := false }, pend := none })

/-- R122: the tolerance of a symbol in basis points; E_UNDEF for Black, White, Pink and the non-symbols. The table's
values are those of the default COLOR_TABLE (log entry 2, a DESIGN CHOICE); the codes from 16 on, which no word
holds, are log entry 13. -/
def Obligations.LutTolResult : Prop :=
  ∀ (s : State) (sym : Nat),
    (∀ bp : Nat, (sym, bp) ∈ [(1, 100), (2, 200), (3, 5), (4, 2), (5, 50), (6, 25), (7, 10), (8, 1), (10, 500), (11, 1000)] →
      exec (.lutTol sym) s = .next { s with
        qOut := 0x80000000#32 + BitVec.ofNat 32 bp
        status := { s.status with ok := true, busy := false }, pend := none }) ∧
    (sym = 0 ∨ sym = 9 ∨ 12 ≤ sym → exec (.lutTol sym) s = .next { s with
      qOut := 0
      status := { s.status with eUndef := true, errPos := 0, ok := false, busy := false }, pend := none })

/-- R123: the TCR of a symbol in ppm/K; E_UNDEF from White on. The table's values are those of the default
COLOR_TABLE (log entry 2, a DESIGN CHOICE); the codes from 16 on, which no word holds, are log entry 13. -/
def Obligations.LutTcrResult : Prop :=
  ∀ (s : State) (sym : Nat),
    (∀ ppm : Nat, (sym, ppm) ∈ [(0, 250), (1, 100), (2, 50), (3, 15), (4, 25), (5, 20), (6, 10), (7, 5), (8, 1)] →
      exec (.lutTcr sym) s = .next { s with
        qOut := 0x80000000#32 + BitVec.ofNat 32 ppm
        status := { s.status with ok := true, busy := false }, pend := none }) ∧
    (9 ≤ sym → exec (.lutTcr sym) s = .next { s with
      qOut := 0
      status := { s.status with eUndef := true, errPos := 0, ok := false, busy := false }, pend := none })

/-- R124, R115: the symbol whose tolerance is exactly the percent value of the operand, however it is spelled;
E_UNDEF when the operand is none of the ten values. The table's values are those of the default COLOR_TABLE (log
entry 2, a DESIGN CHOICE). -/
def Obligations.LutTolinvResult : Prop :=
  ∀ s : State,
    (∀ bp sym : Nat,
      (bp, sym) ∈ [(1, 8), (2, 4), (5, 3), (10, 7), (25, 6), (50, 5), (100, 1), (200, 2), (500, 10), (1000, 11)] →
      decimalValue s.snap.tolM.toNat (s.snap.optCtl.extractLsb 7 0).toInt * 100 = (bp : ℚ) →
      exec .lutTolinv s = .next { s with
        qOut := 0x80000000#32 + BitVec.ofNat 32 sym
        status := { s.status with ok := true, busy := false }, pend := none }) ∧
    ((∀ bp : Nat, bp ∈ [1, 2, 5, 10, 25, 50, 100, 200, 500, 1000] →
        decimalValue s.snap.tolM.toNat (s.snap.optCtl.extractLsb 7 0).toInt * 100 ≠ (bp : ℚ)) →
      exec .lutTolinv s = .next { s with
        qOut := 0
        status := { s.status with eUndef := true, errPos := 0, ok := false, busy := false }, pend := none })

/-- R125, R107: the symbol of a TCR value; E_UNDEF for any value not among the nine. The table's values are those of
the default COLOR_TABLE (log entry 2, a DESIGN CHOICE). -/
def Obligations.LutTcrinvResult : Prop :=
  ∀ s : State,
    (∀ ppm sym : Nat,
      (ppm, sym) ∈ [(250, 0), (100, 1), (50, 2), (15, 3), (25, 4), (20, 5), (10, 6), (5, 7), (1, 8)] →
      s.snap.tcrV.toNat = ppm →
      exec .lutTcrinv s = .next { s with
        qOut := 0x80000000#32 + BitVec.ofNat 32 sym
        status := { s.status with ok := true, busy := false }, pend := none }) ∧
    (s.snap.tcrV.toNat ∉ [250, 100, 50, 15, 25, 20, 10, 5, 1] →
      exec .lutTcrinv s = .next { s with
        qOut := 0
        status := { s.status with eUndef := true, errPos := 0, ok := false, busy := false }, pend := none })

/-- R126, R111, R110: 1 exactly for the triples the slot roles admit, 0 for every other triple; always OK. The
members of the tolerance and TCR cells are those of the default COLOR_TABLE (log entry 2, a DESIGN CHOICE); operands
no field holds are log entry 13. -/
def Obligations.LutMatrixResult : Prop :=
  ∀ (s : State) (sym pos cnt : Nat),
    (Admitted sym pos cnt → exec (.lutMatrix sym pos cnt) s = .next { s with
      qOut := 0x80000001#32, status := { s.status with ok := true, busy := false }, pend := none }) ∧
    (¬ Admitted sym pos cnt → exec (.lutMatrix sym pos cnt) s = .next { s with
      qOut := 0x80000000#32, status := { s.status with ok := true, busy := false }, pend := none })

/-- R114: (a) a legal triple has the role its position needs; (b), (c), (d) the symbols the inverses give are legal
at the positions of their role. The spec marks R114 as derived from R101 and R112. -/
def Obligations.MatrixAgreesWithRoles : Prop :=
  ∀ (pos cnt : Nat) (role : SlotRole), (slotRoles cnt)[pos]? = some role →
    (∀ sym : Nat, legal sym pos cnt = true →
      ((role = .firstDigit ∨ role = .digit) → (digit sym).isSome = true) ∧
      (role = .exponent → (digexp sym).isSome = true) ∧
      (role = .tolerance → (tolBp sym).isSome = true) ∧ (role = .tcr → (tcr sym).isSome = true)) ∧
    (∀ d : Nat, d ≤ 9 → ∃ sym, symOfDigit d = some sym ∧
      (role = .firstDigit → (legal sym pos cnt = true ↔ 1 ≤ d)) ∧ (role = .digit → legal sym pos cnt = true)) ∧
    (role = .exponent → ∀ x : Int, -3 ≤ x → x ≤ 9 → ∃ sym, symOfExp x = some sym ∧ legal sym pos cnt = true) ∧
    (role = .tolerance → ∀ b sym : Nat, symOfTolBp b = some sym → legal sym pos cnt = true) ∧
    (role = .tcr → ∀ p sym : Nat, symOfTcr p = some sym → legal sym pos cnt = true)

/-! ### CONSTRUCT and WITH_COLOR -/

/-- R140, R141, R142: an illegal length fails with E_COUNT whatever the symbols; else the lowest position whose symbol
is not legal fails with E_COLOR there; else R becomes the sequence, with 0 in the slots beyond it. -/
def Obligations.ConstructResult : Prop :=
  ∀ s : State,
    let len := (s.snap.seqIn.extractLsb 26 24).toNat
    let sym := fun i : Nat => s.snap.seqIn.extractLsb' (4 * i) 4
    (len ∉ [1, 3, 4, 5, 6] → exec .construct s = .next { s with
      status := { s.status with eCount := true, errPos := 0, ok := false, busy := false }, pend := none }) ∧
    (len ∈ [1, 3, 4, 5, 6] → ∀ i, i < len → legal (sym i).toNat i len = false →
      (∀ j, j < i → legal (sym j).toNat j len = true) →
      exec .construct s = .next { s with
        status := { s.status with eColor := true, errPos := BitVec.ofNat 3 i, ok := false, busy := false }
        pend := none }) ∧
    (len ∈ [1, 3, 4, 5, 6] → (∀ i, i < len → legal (sym i).toNat i len = true) →
      exec .construct s = .next { s with
        resistor :=
          { valid := true, count := BitVec.ofNat 3 len
            bands := Vector.ofFn (fun i : Fin 6 => if i.val < len then sym i.val else 0) }
        status := { s.status with ok := true, busy := false }, pend := none })

/-- R220, R221, R245: E_NORES without a resistor, before E_BOUNDS for a position beyond the count, before E_COLOR
for a symbol not legal there; else exactly the one band of R is replaced. Operands no field holds are log entry 13. -/
def Obligations.WithColorResult : Prop :=
  ∀ (s : State) (color pos : Nat), s.resistor.Legal →
    (s.resistor.valid = false → exec (.withColor color pos) s = .next { s with
      status := { s.status with eNores := true, errPos := 0, ok := false, busy := false }, pend := none }) ∧
    (s.resistor.valid = true → s.resistor.count.toNat ≤ pos →
      exec (.withColor color pos) s = .next { s with
        status := { s.status with eBounds := true, errPos := 0, ok := false, busy := false }, pend := none }) ∧
    (s.resistor.valid = true → pos < s.resistor.count.toNat → legal color pos s.resistor.count.toNat = false →
      exec (.withColor color pos) s = .next { s with
        status := { s.status with eColor := true, errPos := BitVec.ofNat 3 pos, ok := false, busy := false }
        pend := none }) ∧
    (s.resistor.valid = true → pos < s.resistor.count.toNat → legal color pos s.resistor.count.toNat = true →
      exec (.withColor color pos) s = .next { s with
        resistor := { s.resistor with bands := s.resistor.bands.setIfInBounds pos (BitVec.ofNat 4 color) }
        status := { s.status with ok := true, busy := false }, pend := none })

/-- R222: replacing a band with its own colour succeeds and leaves R, and so R_STATE and every SPEC_* register, as
they were. The spec marks R222 as derived from R220. -/
def Obligations.WithOwnColorChangesNothing : Prop :=
  ∀ (s : State) (i : Nat), s.resistor.Legal → s.resistor.valid = true → i < s.resistor.count.toNat →
    exec (.withColor (s.resistor.band i) i) s
      = .next { s with status := { s.status with ok := true, busy := false }, pend := none }

/-! ### NORMALIZE and DETERMINE -/

/-- R186: NORMALIZE writes the normal form to NORM_OUT by its fields, or clears NORM_OUT and sets E_NOTREP. -/
def Obligations.NormalizeResult : Prop :=
  ∀ s : State,
    (∀ (digits : List Nat) (x : Int),
      normalize s.snap.resM.toNat s.snap.resE.toInt = some (digits, x) →
      ∃ w : Word, exec .normalize s = .next { s with
          normOut := w, status := { s.status with ok := true, busy := false }, pend := none } ∧
        w.getLsbD 31 = true ∧ w.extractLsb 30 24 = 0 ∧ w.extractLsb 15 14 = 0 ∧
        (w.extractLsb 23 16).toInt = x ∧ (w.extractLsb 13 12).toNat = digits.length ∧
        (w.extractLsb 3 0).toNat = digits.getD 0 0 ∧ (w.extractLsb 7 4).toNat = digits.getD 1 0 ∧
        (w.extractLsb 11 8).toNat = digits.getD 2 0) ∧
    (normalize s.snap.resM.toNat s.snap.resE.toInt = none →
      exec .normalize s = .next { s with
        normOut := 0
        status := { s.status with eNotrep := true, errPos := 0, ok := false, busy := false }, pend := none })

/-- R184: the closed form gives the same result as the definition of R183, for every coefficient and exponent. The
spec marks R184 as derived from R183. -/
def Obligations.ClosedFormAgrees : Prop :=
  ∀ (M : Nat) (E : Int), normalize M E = normalizeClosed M E

/-- R183, R185: a result denotes exactly the input; it is [0] for zero and otherwise 2 or 3 digits, the first not 0,
with an exponent in [−3, 9]. The spec marks R185 as derived from R183. -/
def Obligations.NormalFormIsExact : Prop :=
  ∀ (M : Nat) (E : Int) (digits : List Nat) (x : Int), normalize M E = some (digits, x) →
    decimalValue (digitsNumber digits) x = decimalValue M E ∧ -3 ≤ x ∧ x ≤ 9 ∧
    (∀ d, d ∈ digits → d ≤ 9) ∧
    ((M = 0 ∧ digits = [0] ∧ x = 0) ∨
      (M ≠ 0 ∧ (digits.length = 2 ∨ digits.length = 3) ∧ digits.getD 0 0 ≠ 0))

/-- R185: "the result depends only on the number denoted, not on how `(M, E)` spells it". The spec marks R185 as
derived from R183. -/
def Obligations.NormalFormIgnoresSpelling : Prop :=
  ∀ (M M' : Nat) (E E' : Int), decimalValue M E = decimalValue M' E' → normalize M E = normalize M' E'

/-- R190, R191: every failure of the tolerance check, the TCR check and the normalisation is reported at once, and R
is unchanged. -/
def Obligations.DetermineReportsEveryFailure : Prop :=
  ∀ s : State,
    let tolBad : Bool := s.snap.tolPresent && (tolSym s.snap.tolCoeff s.snap.tolExp).isNone
    let tcrBad : Bool := s.snap.tcrPresent && (symOfTcr s.snap.tcrValue).isNone
    let resBad : Bool := (normalize s.snap.resCoeff s.snap.resExp).isNone
    (tolBad || tcrBad || resBad) = true →
      exec .determine s = .next { s with
        status := { s.status with
          eTol := s.status.eTol || tolBad, eTcr := s.status.eTcr || tcrBad
          eNotrep := s.status.eNotrep || resBad, errPos := 0, ok := false, busy := false }
        pend := none }

/-- R187 to R190, R192: when no operand is invalid, the row of the selection table gives R, or the one error of the
combination. -/
def Obligations.DetermineFollowsSelectionTable : Prop :=
  ∀ (s : State) (digits : List Nat) (x : Int) (T C : Option Nat),
    normalize s.snap.resCoeff s.snap.resExp = some (digits, x) → s.snap.TolIs T → s.snap.TcrIs C →
    let commits := fun (n : BitVec 3) (bands : Vector Code 6) =>
      exec .determine s = .next { s with
        resistor := { valid := true, count := n, bands := bands }
        status := { s.status with ok := true, busy := false }, pend := none }
    let c4 := fun n : Nat => BitVec.ofNat 4 n
    match digits, T, C with
    | [_], none, none => commits 1 #v[0, 0, 0, 0, 0, 0]
    | [d0, d1], none, none =>
      ∃ e, symOfExp x = some e ∧ commits 3 #v[c4 d0, c4 d1, c4 e, 0, 0, 0]
    | [d0, d1], some t, none =>
      ∃ e, symOfExp x = some e ∧ commits 4 #v[c4 d0, c4 d1, c4 e, c4 t, 0, 0]
    | [d0, d1], some t, some c =>
      (x ≠ -3 → ∃ e, symOfExp (x - 1) = some e ∧ commits 6 #v[c4 d0, c4 d1, 0, c4 e, c4 t, c4 c]) ∧
      (x = -3 → exec .determine s = .next { s with
        status := { s.status with eNotrep := true, errPos := 0, ok := false, busy := false }, pend := none })
    | [d0, d1, d2], some t, none =>
      ∃ e, symOfExp x = some e ∧ commits 5 #v[c4 d0, c4 d1, c4 d2, c4 e, c4 t, 0]
    | [d0, d1, d2], some t, some c =>
      ∃ e, symOfExp x = some e ∧ commits 6 #v[c4 d0, c4 d1, c4 d2, c4 e, c4 t, c4 c]
    | [_, _, _], none, none => exec .determine s = .next { s with
        status := { s.status with eMisstol := true, errPos := 0, ok := false, busy := false }, pend := none }
    | _, _, _ => exec .determine s = .next { s with
        status := { s.status with eNolayout := true, errPos := 0, ok := false, busy := false }, pend := none }

/-- R193: whatever DETERMINE accepts, the decoded resistance of the committed R equals the input exactly, with or
without a tolerance and a TCR. The spec marks R193 as derived from R183, R187 and R162 to R165. -/
def Obligations.DetermineRoundTrip : Prop :=
  ∀ s t : State, exec .determine s = .next t → t.status.ok = true →
    decimalValue ((busRead 17 t).extractLsb 9 0).toNat ((busRead 17 t).extractLsb 23 16).toInt
      = decimalValue s.snap.resM.toNat s.snap.resE.toInt

/-- R180, R186: DETERMINE does not read the value registers of an absent operand, and NORMALIZE reads RES_M and RES_E
alone: two states that agree on what is read commit the same outcome. -/
def Obligations.AbsentOperandsAreNotRead : Prop :=
  ∀ s s' : State,
    (s.snap.SameForDetermine s'.snap →
      ∃ o, exec .determine s = .next (s.commit o) ∧ exec .determine s' = .next (s'.commit o)) ∧
    (s.snap.resM = s'.snap.resM → s.snap.resE = s'.snap.resE →
      ∃ o, exec .normalize s = .next (s.commit o) ∧ exec .normalize s' = .next (s'.commit o))

/-! ### The spec decoder -/

/-- R42, R160 to R166: with no valid resistor all four views read 0; for every legal resistor they show, by fields, the
values its count decodes to, with symbols read as digits and exponents. -/
def Obligations.SpecViewsDecodeR : Prop :=
  ∀ s : State,
    (s.resistor.valid = false → busRead 17 s = 0 ∧ busRead 18 s = 0 ∧ busRead 19 s = 0 ∧ busRead 20 s = 0) ∧
    (s.resistor.Legal → s.resistor.valid = true →
      let r := s.resistor
      let n := r.count.toNat
      ∃ (m bp : Nat) (x : Int) (p : Option Nat),
        (n = 1 → m = 0 ∧ x = 0) ∧
        (n = 3 ∨ n = 4 → m = 10 * r.band 0 + r.band 1 ∧ digexp (r.band 2) = some x) ∧
        (n = 5 ∨ n = 6 → m = 100 * r.band 0 + 10 * r.band 1 + r.band 2 ∧ digexp (r.band 3) = some x) ∧
        (n = 1 ∨ n = 3 → bp = 2000) ∧ (n = 4 → tolBp (r.band 3) = some bp) ∧
        (n = 5 ∨ n = 6 → tolBp (r.band 4) = some bp) ∧
        (n ≠ 6 → p = none) ∧ (n = 6 → p.isSome = true ∧ tcr (r.band 5) = p) ∧
        ((busRead 17 s).extractLsb 9 0).toNat = m ∧ ((busRead 17 s).extractLsb 23 16).toInt = x ∧
        (busRead 17 s).getLsbD 31 = true ∧ (busRead 17 s).extractLsb 15 10 = 0 ∧
        (busRead 17 s).extractLsb 30 24 = 0 ∧
        ((busRead 18 s).extractLsb 11 0).toNat = bp ∧ ((busRead 18 s).extractLsb 23 16).toNat = p.getD 0 ∧
        (busRead 18 s).getLsbD 24 = p.isSome ∧ (busRead 18 s).getLsbD 31 = true ∧
        (busRead 18 s).extractLsb 15 12 = 0 ∧ (busRead 18 s).extractLsb 30 25 = 0 ∧
        ((busRead 19 s).extractLsb 23 0).toNat = m * (10000 - bp) ∧
        ((busRead 19 s).extractLsb 31 24).toInt = x - 4 ∧
        ((busRead 20 s).extractLsb 23 0).toNat = m * (10000 + bp) ∧
        ((busRead 20 s).extractLsb 31 24).toInt = x - 4)

/-- R167: the ranges of the decoded values of every legal resistor. The spec marks R167 as derived from R161 to R166
and R101. The tolerances, the bound on the TCR and the bound on min_m are those of the default COLOR_TABLE (log
entry 2, a DESIGN CHOICE). -/
def Obligations.DecodedValuesFit : Prop :=
  ∀ r : Resistor, r.Legal → r.valid = true → ∃ p : Specs, specs r = some p ∧
    p.ohmM ≤ 999 ∧ -3 ≤ p.ohmE ∧ p.ohmE ≤ 9 ∧
    p.tolBp ∈ [1, 2, 5, 10, 25, 50, 100, 200, 500, 1000, 2000] ∧ p.tcr.getD 0 ≤ 250 ∧
    p.minM ≤ 9989001 ∧ p.maxM ≤ 11988000 ∧ p.maxM < 2 ^ 24 ∧ -7 ≤ p.boundE ∧ p.boundE ≤ 5

/-- R168: for every valid R, min ≤ ohm ≤ max, and both differences are ohm_m × tol_bp × 10^(ohm_e − 4) exactly; for
a 1-band R all three are 0. The spec marks R168 as derived from R166. -/
def Obligations.ToleranceContainment : Prop :=
  ∀ r : Resistor, r.Legal → r.valid = true → ∃ p : Specs, specs r = some p ∧
    let ohm := decimalValue p.ohmM p.ohmE
    let low := decimalValue p.minM p.boundE
    let high := decimalValue p.maxM p.boundE
    low ≤ ohm ∧ ohm ≤ high ∧
    high - ohm = decimalValue (p.ohmM * p.tolBp) (p.ohmE - 4) ∧
    ohm - low = decimalValue (p.ohmM * p.tolBp) (p.ohmE - 4) ∧
    (r.count = 1 → low = 0 ∧ ohm = 0 ∧ high = 0)
end

