-- ==== Sys2Proof/Laws/Tables.lean ====
section
/-! SUPPORT. The Color Table and the Band Validity Matrix as relations: what each lookup gives, and that legal is the
slot role's relation (R102 to R112). -/

namespace Sys2Proof.Machine

/-- A 16-bit mask admits a number exactly when a predicate that fails from 16 on says so for each of 0 to 15. -/
theorem mask_iff (m : BitVec 16) (P : Nat → Prop) (hbig : ∀ s, 16 ≤ s → ¬ P s)
    (hsmall : ∀ s, s < 16 → (m.getLsbD s = true ↔ P s)) (s : Nat) : m.getLsbD s = true ↔ P s := by
  by_cases h : s < 16
  · exact hsmall s h
  · simp [BitVec.getLsbD_of_ge m s (by omega), hbig s (by omega)]

theorem maskZero_iff (s : Nat) : maskZero.getLsbD s = true ↔ SlotRole.zeroOhm.admits s :=
  mask_iff _ _ (by intro s h; simp [SlotRole.admits]; omega) (by unfold SlotRole.admits; decide) s

theorem maskDignz_iff (s : Nat) : maskDignz.getLsbD s = true ↔ SlotRole.firstDigit.admits s :=
  mask_iff _ _ (by intro s h; simp [SlotRole.admits]; omega) (by unfold SlotRole.admits; decide) s

theorem maskDig_iff (s : Nat) : maskDig.getLsbD s = true ↔ SlotRole.digit.admits s :=
  mask_iff _ _ (by intro s h; simp [SlotRole.admits]; omega) (by unfold SlotRole.admits; decide) s

theorem maskExp_iff (s : Nat) : maskExp.getLsbD s = true ↔ SlotRole.exponent.admits s :=
  mask_iff _ _ (by intro s h; simp [SlotRole.admits]; omega) (by unfold SlotRole.admits; decide) s

theorem maskTol_iff (s : Nat) : maskTol.getLsbD s = true ↔ SlotRole.tolerance.admits s :=
  mask_iff _ _ (by intro s h; simp [SlotRole.admits]; omega) (by unfold SlotRole.admits; decide) s

theorem maskTcr_iff (s : Nat) : maskTcr.getLsbD s = true ↔ SlotRole.tcr.admits s :=
  mask_iff _ _ (by intro s h; simp [SlotRole.admits]; omega) (by unfold SlotRole.admits; decide) s

/-- The mask of a slot role (R112). -/
def SlotRole.mask (role : SlotRole) : BitVec 16 :=
  match role with
  | .zeroOhm => maskZero
  | .firstDigit => maskDignz
  | .digit => maskDig
  | .exponent => maskExp
  | .tolerance => maskTol
  | .tcr => maskTcr

theorem SlotRole.mask_iff (role : SlotRole) (s : Nat) : role.mask.getLsbD s = true ↔ role.admits s := by
  cases role
  · exact maskZero_iff s
  · exact maskDignz_iff s
  · exact maskDig_iff s
  · exact maskExp_iff s
  · exact maskTol_iff s
  · exact maskTcr_iff s

/-- A cell of the ROM is the mask of the slot's role (R112). -/
theorem cell_eq (cnt pos : Nat) : cell cnt pos = ((slotRoles cnt)[pos]?).map SlotRole.mask := by
  rcases cnt with _ | _ | _ | _ | _ | _ | _ | n
  case succ.succ.succ.succ.succ.succ.succ =>
    have : matrix.lookup (n + 7) = none := by
      simp [matrix, List.lookup]
    simp [cell, slotRoles, this]
  all_goals
    rcases pos with _ | _ | _ | _ | _ | _ | m <;> simp [cell, slotRoles, matrix, List.lookup, SlotRole.mask]

/-- R111: `legal` is membership in the cell of the slot's role. -/
theorem legal_iff (s pos cnt : Nat) : legal s pos cnt = true ↔ Admitted s pos cnt := by
  unfold legal Admitted
  rw [cell_eq]
  cases h : (slotRoles cnt)[pos]? with
  | none => simp
  | some role => simpa using role.mask_iff s

theorem SlotRole.admits_lt {role : SlotRole} {s : Nat} (h : role.admits s) : s < 13 := by
  cases role <;> simp only [SlotRole.admits] at h <;> omega

/-- Only symbols are legal: never a non-symbol (R143). -/
theorem legal_lt {s pos cnt : Nat} (h : legal s pos cnt = true) : s < 13 := by
  obtain ⟨role, -, hr⟩ := (legal_iff s pos cnt).mp h
  exact SlotRole.admits_lt hr

theorem colorTable_none {s : Nat} (h : 13 ≤ s) : colorTable[s]? = none := by
  simp [colorTable]; omega

theorem digit_eq (s : Nat) : digit s = if s ≤ 9 then some s else none := by
  by_cases h : s < 13
  · interval_cases s <;> rfl
  · simp [digit, colorTable_none (show 13 ≤ s by omega)]; omega

theorem digexp_eq (s : Nat) : digexp s = if s ≤ 9 then some (s : Int) else if s ≤ 12 then some (9 - (s : Int)) else none := by
  by_cases h : s < 13
  · interval_cases s <;> rfl
  · have h1 : ¬ s ≤ 9 := by omega
    have h2 : ¬ s ≤ 12 := by omega
    simp [digexp, colorTable_none (show 13 ≤ s by omega), h1, h2]

theorem tolBp_isSome_iff (s : Nat) : (tolBp s).isSome = true ↔ SlotRole.tolerance.admits s := by
  by_cases h : s < 13
  · interval_cases s <;> simp [tolBp, colorTable, SlotRole.admits]
  · simp [tolBp, colorTable_none (show 13 ≤ s by omega), SlotRole.admits]; omega

theorem tcr_isSome_iff (s : Nat) : (tcr s).isSome = true ↔ SlotRole.tcr.admits s := by
  by_cases h : s < 13
  · interval_cases s <;> simp [tcr, colorTable, SlotRole.admits]
  · simp [tcr, colorTable_none (show 13 ≤ s by omega), SlotRole.admits]; omega

/-- A symbol the inverse tolerance lookup gives has that tolerance (R106). -/
theorem symOfTolBp_some {b s : Nat} (h : symOfTolBp b = some s) : s < 13 ∧ tolBp s = some b := by
  have h1 := List.find?_some h
  have h2 := List.mem_of_find?_eq_some h
  exact ⟨by simpa [colorTable] using h2, by simpa using h1⟩

theorem symOfTolBp_none {b : Nat} (h : symOfTolBp b = none) (s : Nat) : tolBp s ≠ some b := by
  intro hs
  have hlt : s < 13 := by
    by_contra hh
    simp [tolBp, colorTable_none (show 13 ≤ s by omega)] at hs
  have := List.find?_eq_none.mp h s (by simpa [colorTable] using hlt)
  simp [hs] at this

theorem symOfTcr_some {p s : Nat} (h : symOfTcr p = some s) : s < 13 ∧ tcr s = some p := by
  have h1 := List.find?_some h
  have h2 := List.mem_of_find?_eq_some h
  exact ⟨by simpa [colorTable] using h2, by simpa using h1⟩

theorem symOfTcr_none {p : Nat} (h : symOfTcr p = none) (s : Nat) : tcr s ≠ some p := by
  intro hs
  have hlt : s < 13 := by
    by_contra hh
    simp [tcr, colorTable_none (show 13 ≤ s by omega)] at hs
  have := List.find?_eq_none.mp h s (by simpa [colorTable] using hlt)
  simp [hs] at this

/-- An exponent in [−3, 9] has a symbol, and `digexp` gives it back (R108). -/
theorem symOfExp_some {x : Int} (h1 : -3 ≤ x) (h2 : x ≤ 9) :
    ∃ s, symOfExp x = some s ∧ s ≤ 12 ∧ digexp s = some x := by
  interval_cases x <;> exact ⟨_, rfl, by decide, rfl⟩

end Sys2Proof.Machine
end

