-- ==== Sys2Proof/Laws/Construct.lean ====
section
/-! SUPPORT. The constructed resistor (R140): its bands, and that it is legal (R146). -/

namespace Sys2Proof.Machine

/-- The bands of a constructed resistor: the symbols below the count, 0 beyond it (R140, D39). -/
theorem resistorOf_band {L : Nat} {seq : List Nat} {i : Nat} (hL : L ≤ 6) :
    (resistorOf L seq).band i = if i < L then codeAt seq i % 16 else 0 := by
  have h16 : ∀ j, (slotOf L seq j).toNat = if j < L then codeAt seq j % 16 else 0 := by
    intro j
    unfold slotOf
    split <;> simp
  by_cases hi : i < 6
  · rw [← h16]
    interval_cases i <;> rfl
  · rw [if_neg (by omega)]
    have : (resistorOf L seq).bands[i]? = none := by simp; omega
    unfold Resistor.band
    rw [this]
    rfl

/-- What the constructor accepts is a legal resistor (R146). -/
theorem resistorOf_legal {L : Nat} {seq : List Nat} (hL : L ∈ Config.bandCounts)
    (h : ∀ i, i < L → legal (codeAt seq i) i L = true) : (resistorOf L seq).Legal := by
  have h6 : L ≤ 6 := by simp at hL; omega
  have hc : (resistorOf L seq).count.toNat = L := by
    show (BitVec.ofNat 3 L).toNat = L
    rw [BitVec.toNat_ofNat]
    exact Nat.mod_eq_of_lt (by omega)
  refine .inr ⟨rfl, by rw [hc]; exact hL, ?_, ?_⟩ <;> rw [hc] <;> intro i hi
  · rw [resistorOf_band h6, if_pos hi, Nat.mod_eq_of_lt (by have := legal_lt (h i hi); omega)]
    exact h i hi
  · rw [resistorOf_band h6, if_neg (by omega)]

/-- The codes of a legal resistor after WITH_COLOR's replacement (R220). -/
theorem codeAt_codes_set (r : Resistor) {color pos i : Nat} (hp : pos < 6) (hi : i < 6) :
    codeAt (r.codes.set pos color) i = if i = pos then color else r.band i := by
  interval_cases pos <;> interval_cases i <;> rfl

end Sys2Proof.Machine
end

