-- ==== Sys2Proof/Laws/Decimal.lean ====
section
/-! SUPPORT. What the digit count (R13) and the canonical form (R12) say, once. -/

namespace Sys2Proof.Machine

theorem ndigitsAux_spec : ∀ (fuel m : Nat), 1 ≤ m → m ≤ fuel →
    1 ≤ ndigitsAux fuel m ∧ 10 ^ (ndigitsAux fuel m - 1) ≤ m ∧ m < 10 ^ ndigitsAux fuel m := by
  intro fuel
  induction fuel with
  | zero => intro m h1 h2; omega
  | succ fuel ih =>
    intro m h1 h2
    simp only [ndigitsAux]
    split
    · simp; omega
    · obtain ⟨a, b, c⟩ := ih (m / 10) (by omega) (by omega)
      obtain ⟨k, hk⟩ : ∃ k, ndigitsAux fuel (m / 10) = k + 1 := ⟨_, (Nat.sub_add_cancel a).symm⟩
      rw [hk] at b c ⊢
      simp only [Nat.add_sub_cancel, pow_succ] at b c ⊢
      refine ⟨by omega, by omega, by omega⟩

/-- R13: `ndigits(m)` is at least 1, and 10^(k−1) ≤ m < 10^k for k = ndigits(m). -/
theorem ndigits_spec {m : Nat} (h : 1 ≤ m) :
    1 ≤ ndigits m ∧ 10 ^ (ndigits m - 1) ≤ m ∧ m < 10 ^ ndigits m :=
  ndigitsAux_spec m m h le_rfl

theorem ndigits_le_iff {m : Nat} (h : 1 ≤ m) (k : Nat) : ndigits m ≤ k ↔ m < 10 ^ k := by
  obtain ⟨a, b, c⟩ := ndigits_spec h
  constructor
  · intro h; exact c.trans_le (Nat.pow_le_pow_right (by norm_num) h)
  · intro h
    by_contra hh
    have : 10 ^ k ≤ 10 ^ (ndigits m - 1) := Nat.pow_le_pow_right (by norm_num) (by omega)
    omega

theorem canonLoop_spec : ∀ (fuel m : Nat) (e : Int), 1 ≤ m → m ≤ fuel →
    ∃ k : Nat, m = (canonLoop fuel m e).1 * 10 ^ k ∧ (canonLoop fuel m e).2 = e + k ∧ (canonLoop fuel m e).1 % 10 ≠ 0 := by
  intro fuel
  induction fuel with
  | zero => intro m e h1 h2; omega
  | succ fuel ih =>
    intro m e h1 h2
    simp only [canonLoop]
    split
    · rename_i h
      obtain ⟨k, a, b, c⟩ := ih (m / 10) (e + 1) (by omega) (by omega)
      refine ⟨k + 1, ?_, ?_, c⟩
      · rw [pow_succ, ← mul_assoc, ← a]; omega
      · rw [b]; push_cast; ring
    · exact ⟨0, by simp, by simp, by assumption⟩

theorem canon_zero (E : Int) : canon 0 E = none := rfl

theorem canon_spec {M : Nat} (E : Int) (h : 1 ≤ M) :
    ∃ m k, canon M E = some (m, E + (k : Nat)) ∧ M = m * 10 ^ k ∧ m % 10 ≠ 0 := by
  obtain ⟨k, a, b, c⟩ := canonLoop_spec M M E h le_rfl
  refine ⟨(canonLoop M M E).1, k, ?_, a, c⟩
  have h0 : M ≠ 0 := by omega
  simp only [canon, h0, if_false]
  exact congrArg some (Prod.ext rfl b)

end Sys2Proof.Machine
end

