-- ==== Sys2Proof/Laws/Decode.lean ====
section
/-! SUPPORT. The decoder as a chain of tests (R85), and each format's mask as a test of fields (R81 to R84). -/

namespace Sys2Proof

/-- A word, by its fields of format S (R82). -/
theorem word_eq_fieldsS (w : Word) :
    w = w.extractLsb 31 12 ++ w.extractLsb 11 8 ++ w.extractLsb 7 0 := by
  apply BitVec.eq_of_getLsbD_eq
  intro i hi
  simp only [BitVec.getLsbD_append, BitVec.getLsbD_extractLsb]
  interval_cases i <;> simp

/-- A word, by its fields of format W (R83). -/
theorem word_eq_fieldsW (w : Word) :
    w = w.extractLsb 31 15 ++ w.extractLsb 14 12 ++ w.extractLsb 11 8 ++ w.extractLsb 7 0 := by
  apply BitVec.eq_of_getLsbD_eq
  intro i hi
  simp only [BitVec.getLsbD_append, BitVec.getLsbD_extractLsb]
  interval_cases i <;> simp

/-- A word, by its fields of format M (R84). -/
theorem word_eq_fieldsM (w : Word) :
    w = w.extractLsb 31 19 ++ w.extractLsb 18 16 ++ w.extractLsb 15 15 ++ w.extractLsb 14 12 ++ w.extractLsb 11 8
      ++ w.extractLsb 7 0 := by
  apply BitVec.eq_of_getLsbD_eq
  intro i hi
  simp only [BitVec.getLsbD_append, BitVec.getLsbD_extractLsb]
  interval_cases i <;> simp

theorem append_inj {m n : Nat} {a c : BitVec m} {b d : BitVec n} : a ++ b = c ++ d ↔ a = c ∧ b = d := by
  constructor
  · intro h
    have h1 : (a ++ b).extractLsb' n m = (c ++ d).extractLsb' n m := by rw [h]
    have h2 : (a ++ b).extractLsb' 0 n = (c ++ d).extractLsb' 0 n := by rw [h]
    rw [BitVec.extractLsb'_append_eq_left, BitVec.extractLsb'_append_eq_left] at h1
    rw [BitVec.extractLsb'_append_eq_right, BitVec.extractLsb'_append_eq_right] at h2
    exact ⟨h1, h2⟩
  · rintro ⟨rfl, rfl⟩; rfl

theorem maskS_iff (w : Word) (op : BitVec 8) :
    w &&& maskS = 0#20 ++ 0#4 ++ op ↔ w.extractLsb 31 12 = 0#20 ∧ w.extractLsb 7 0 = op := by
  have hm : maskS = BitVec.allOnes 20 ++ 0#4 ++ BitVec.allOnes 8 := by decide
  conv_lhs => rw [word_eq_fieldsS w, hm]
  rw [BitVec.and_append, BitVec.and_append, append_inj, append_inj, BitVec.and_allOnes, BitVec.and_allOnes]
  simp

theorem maskW_iff (w : Word) (op : BitVec 8) :
    w &&& maskW = 0#17 ++ 0#3 ++ 0#4 ++ op ↔ w.extractLsb 31 15 = 0#17 ∧ w.extractLsb 7 0 = op := by
  have hm : maskW = BitVec.allOnes 17 ++ 0#3 ++ 0#4 ++ BitVec.allOnes 8 := by decide
  conv_lhs => rw [word_eq_fieldsW w, hm]
  rw [BitVec.and_append, BitVec.and_append, BitVec.and_append, append_inj, append_inj, append_inj, BitVec.and_allOnes, BitVec.and_allOnes]
  simp

theorem maskM_iff (w : Word) (op : BitVec 8) :
    w &&& maskM = 0#13 ++ 0#3 ++ 0#1 ++ 0#3 ++ 0#4 ++ op ↔
      w.extractLsb 31 19 = 0#13 ∧ w.extractLsb 15 15 = 0#1 ∧ w.extractLsb 7 0 = op := by
  have hm : maskM = BitVec.allOnes 13 ++ 0#3 ++ BitVec.allOnes 1 ++ 0#3 ++ 0#4 ++ BitVec.allOnes 8 := by decide
  conv_lhs => rw [word_eq_fieldsM w, hm]
  rw [BitVec.and_append, BitVec.and_append, BitVec.and_append, BitVec.and_append, BitVec.and_append, append_inj, append_inj,
    append_inj, append_inj, append_inj, BitVec.and_allOnes, BitVec.and_allOnes, BitVec.and_allOnes]
  simp [and_assoc]

theorem decode_chain (w : Word) : decode w =
    if w = 0#32 then .ok .nop else if w = 1#32 then .ok .construct else if w = 2#32 then .ok .determine
    else if w &&& maskW = 3#32 then .ok (.withColor (symField w) (posField w))
    else if w = 4#32 then .ok .normalize
    else if w &&& maskS = 0x10#32 then .ok (.lutDigit (symField w))
    else if w &&& maskS = 0x11#32 then .ok (.lutDigexp (symField w))
    else if w &&& maskS = 0x12#32 then .ok (.lutTol (symField w))
    else if w &&& maskS = 0x13#32 then .ok (.lutTcr (symField w))
    else if w = 0x14#32 then .ok .lutTolinv
    else if w = 0x15#32 then .ok .lutTcrinv
    else if w &&& maskM = 0x16#32 then .ok (.lutMatrix (symField w) (posField w) (cntField w))
    else if opcodeListed (opcodeField w) then .error (.mustBeZero (opcodeField w))
    else .error (.unlistedOpcode (opcodeField w)) := by
  have hN : w &&& maskN = w := by
    have : maskN = BitVec.allOnes 32 := by decide
    rw [this, BitVec.and_allOnes]
  unfold decode opTable
  simp only [List.find?_cons, OpRow.matchesWord, hN, List.find?_nil]
  by_cases h0 : w = 0#32
  · simp [h0]
  have b0 : (w == 0#32) = false := by simpa using h0
  simp only [b0, h0, if_false]
  by_cases h1 : w = 1#32
  · simp [h1]
  have b1 : (w == 1#32) = false := by simpa using h1
  simp only [b1, h1, if_false]
  by_cases h2 : w = 2#32
  · simp [h2]
  have b2 : (w == 2#32) = false := by simpa using h2
  simp only [b2, h2, if_false]
  by_cases h3 : w &&& maskW = 3#32
  · simp [h3]
  have b3 : (w &&& maskW == 3#32) = false := by simpa using h3
  simp only [b3, h3, if_false]
  by_cases h4 : w = 4#32
  · simp [h4]
  have b4 : (w == 4#32) = false := by simpa using h4
  simp only [b4, h4, if_false]
  by_cases h5 : w &&& maskS = 0x10#32
  · simp [h5]
  have b5 : (w &&& maskS == 0x10#32) = false := by simpa using h5
  simp only [b5, h5, if_false]
  by_cases h6 : w &&& maskS = 0x11#32
  · simp [h6]
  have b6 : (w &&& maskS == 0x11#32) = false := by simpa using h6
  simp only [b6, h6, if_false]
  by_cases h7 : w &&& maskS = 0x12#32
  · simp [h7]
  have b7 : (w &&& maskS == 0x12#32) = false := by simpa using h7
  simp only [b7, h7, if_false]
  by_cases h8 : w &&& maskS = 0x13#32
  · simp [h8]
  have b8 : (w &&& maskS == 0x13#32) = false := by simpa using h8
  simp only [b8, h8, if_false]
  by_cases h9 : w = 0x14#32
  · simp [h9]
  have b9 : (w == 0x14#32) = false := by simpa using h9
  simp only [b9, h9, if_false]
  by_cases h10 : w = 0x15#32
  · simp [h10]
  have b10 : (w == 0x15#32) = false := by simpa using h10
  simp only [b10, h10, if_false]
  by_cases h11 : w &&& maskM = 0x16#32
  · simp [h11]
  have b11 : (w &&& maskM == 0x16#32) = false := by simpa using h11
  simp only [b11, h11, if_false]
end Sys2Proof
end

