-- ==== Sys2Proof/Laws/Ops.lean ====
section
/-! SUPPORT. What each shared operation can do, once: a command is one commit of an outcome, and the outcomes' cases. -/

namespace Sys2Proof.Machine

/-- The outcome each command's meaning commits (R50 `execute`). -/
def outcomeOf (i : Instr) (s : State) : CmdOutcome :=
  match i with
  | .nop => .ok {}
  | .construct => constructOutcome s.snap.seqLen s.snap.seqSyms
  | .determine => determineOutcome s.snap
  | .withColor color pos => withColorOutcome s.resistor color pos
  | .normalize => normalizeOutcome s.snap
  | .lutDigit sym => lookupOutcome (qUnsigned (digit sym))
  | .lutDigexp sym => lookupOutcome ((digexp sym).map (enc 16))
  | .lutTol sym => lookupOutcome (qUnsigned (tolBp sym))
  | .lutTcr sym => lookupOutcome (qUnsigned (tcr sym))
  | .lutTolinv => lookupOutcome (qUnsigned (tolSym s.snap.tolCoeff s.snap.tolExp))
  | .lutTcrinv => lookupOutcome (qUnsigned (symOfTcr s.snap.tcrValue))
  | .lutMatrix sym pos cnt => lookupOutcome (some (if legal sym pos cnt then 1 else 0))

/-- Every command is one commit of its outcome (R50): it always answers a next state. -/
theorem exec_eq (i : Instr) (s : State) : exec i s = .next (s.commit (outcomeOf i s)) := by
  cases i <;> rfl

/-- An illegal word is one commit of E_CMD (R232). -/
theorem execIllegal_eq (s : State) : execIllegal s = .next (s.commit (.err [.eCmd] 0 {})) := rfl

/-- A command word is one commit: of the command it decodes to, or of E_CMD. -/
theorem execWord_eq (w : Word) (s : State) :
    ∃ o, execWord w s = .next (s.commit o) ∧
      ((∃ i, decode w = .ok i ∧ o = outcomeOf i s) ∨ (∃ e, decode w = .error e ∧ o = .err [.eCmd] 0 {})) := by
  unfold execWord
  cases h : decode w with
  | ok i => exact ⟨_, exec_eq i s, .inl ⟨i, rfl, rfl⟩⟩
  | error e => exact ⟨_, rfl, .inr ⟨e, rfl, rfl⟩⟩

section Commit

variable (o : CmdOutcome) (s : State)

@[simp] theorem State.commit_operands : (s.commit o).operands = s.operands := by cases o <;> rfl
@[simp] theorem State.commit_host : (s.commit o).host = s.host := by cases o <;> rfl
@[simp] theorem State.commit_cycle : (s.commit o).cycle = s.cycle := by cases o <;> rfl
@[simp] theorem State.commit_pend : (s.commit o).pend = none := by cases o <;> rfl
@[simp] theorem State.commit_busy : (s.commit o).status.busy = false := by cases o <;> rfl

end Commit

/-- A lookup either finds a value for Q_OUT or clears Q_OUT with E_UNDEF. -/
theorem lookupOutcome_cases (v : Option (BitVec 16)) :
    (∃ q, v = some q ∧ lookupOutcome v = .ok { qOut := some (qFound q) }) ∨
      (v = none ∧ lookupOutcome v = .err [.eUndef] 0 { qOut := some 0 }) := by
  cases v with
  | none => exact .inr ⟨rfl, rfl⟩
  | some q => exact .inl ⟨q, rfl, rfl⟩

/-- What the constructor can do (R140, R142). -/
theorem constructOutcome_cases (L : Nat) (seq : List Nat) :
    (L ∉ Config.bandCounts ∧ constructOutcome L seq = .err [.eCount] 0 {}) ∨
    (L ∈ Config.bandCounts ∧ ∃ i, i < L ∧ legal (codeAt seq i) i L = false ∧
      (∀ j, j < i → legal (codeAt seq j) j L = true) ∧ constructOutcome L seq = .err [.eColor] i {}) ∨
    (L ∈ Config.bandCounts ∧ (∀ i, i < L → legal (codeAt seq i) i L = true) ∧
      constructOutcome L seq = .ok { resistor := some (resistorOf L seq) }) := by
  unfold constructOutcome firstIllegal
  by_cases hL : L ∈ Config.bandCounts
  · right
    cases h : (List.range L).find? (fun i => !legal (codeAt seq i) i L) with
    | some i =>
      left
      rw [List.find?_range_eq_some] at h
      simp only [Bool.not_eq_true', List.mem_range, Bool.not_not] at h
      exact ⟨hL, i, h.2.1, h.1, h.2.2, by simp [hL]⟩
    | none =>
      right
      refine ⟨hL, ?_, by simp [hL]⟩
      simpa using h
  · left; simp [hL]

/-- The constructor succeeds on a sequence that is legal at every position (R140). -/
theorem constructOutcome_ok {L : Nat} {seq : List Nat} (hL : L ∈ Config.bandCounts)
    (h : ∀ i, i < L → legal (codeAt seq i) i L = true) :
    constructOutcome L seq = .ok { resistor := some (resistorOf L seq) } := by
  rcases constructOutcome_cases L seq with ⟨a, -⟩ | ⟨-, i, hi, hl, -⟩ | ⟨-, -, e⟩
  · exact absurd hL a
  · rw [h i hi] at hl; exact absurd hl (by decide)
  · exact e

/-- What WITH_COLOR can do (R220). -/
theorem withColorOutcome_cases (r : Resistor) (color pos : Nat) :
    (r.valid = false ∧ withColorOutcome r color pos = .err [.eNores] 0 {}) ∨
    (r.valid = true ∧ r.count.toNat ≤ pos ∧ withColorOutcome r color pos = .err [.eBounds] 0 {}) ∨
    (r.valid = true ∧ pos < r.count.toNat ∧
      withColorOutcome r color pos = constructOutcome r.count.toNat (r.codes.set pos color)) := by
  unfold withColorOutcome
  cases hv : r.valid
  · simp
  · by_cases h : r.count.toNat ≤ pos
    · simp [h]
    · right; right; simp [h]; omega

/-- What NORMALIZE can do (R186). -/
theorem normalizeOutcome_cases (o : Operands) :
    (∃ ds x, normalize o.resCoeff o.resExp = some (ds, x) ∧
      normalizeOutcome o = .ok { normOut := some (normWord ds x) }) ∨
    (normalize o.resCoeff o.resExp = none ∧ normalizeOutcome o = .err [.eNotrep] 0 { normOut := some 0 }) := by
  unfold normalizeOutcome
  cases h : normalize o.resCoeff o.resExp with
  | none => exact .inr ⟨rfl, rfl⟩
  | some p => exact .inl ⟨p.1, p.2, rfl, rfl⟩

/-- What DETERMINE can do (R190): report every failure of steps 1 and 2, or go on to the layout. -/
theorem determineOutcome_cases (o : Operands) :
    (stepErrors (checkTol o) (checkTcr o) (normalize o.resCoeff o.resExp) ≠ [] ∧
      determineOutcome o =
        .err (stepErrors (checkTol o) (checkTcr o) (normalize o.resCoeff o.resExp)) 0 {}) ∨
    (∃ ds x, normalize o.resCoeff o.resExp = some (ds, x) ∧ checkTol o ≠ .invalid ∧ checkTcr o ≠ .invalid ∧
      determineOutcome o = resolveLayout ds x (checkTol o).sym (checkTcr o).sym) := by
  unfold determineOutcome
  cases hn : normalize o.resCoeff o.resExp with
  | none => left; simp [stepErrors]
  | some p =>
    obtain ⟨ds, x⟩ := p
    by_cases ht : checkTol o = .invalid
    · left; simp [stepErrors, ht]
    · by_cases hc : checkTcr o = .invalid
      · left; simp [stepErrors, hc, ht]
      · right; exact ⟨ds, x, rfl, ht, hc, by simp [stepErrors, ht, hc]⟩

end Sys2Proof.Machine
end

