-- ==== Sys2Proof/Laws/Engine.lean ====
section
/-! SUPPORT. What one clock edge can do, once: the cases of a host write, and the cases of a step. -/

namespace Sys2Proof.Machine

/-- What a host write can do (R62, R63): nothing; E_BUSYWR set; a command issued; E_BUSYWR written; one operand
register written. -/
theorem busWrite_cases (a : Addr) (v : Word) (s : State) :
    (busWrite a v s = s ∧ ¬ (a.toNat = 1 ∨ 3 ≤ a.toNat ∧ a.toNat ≤ 9)) ∨
    (s.status.busy = true ∧ (a.toNat = 1 ∨ 3 ≤ a.toNat ∧ a.toNat ≤ 9) ∧ busWrite a v s = s.dropWrite) ∨
    (s.status.busy = false ∧ a = 1 ∧ busWrite a v s = s.issue v) ∨
    (a = 2 ∧ busWrite a v s = { s with status := s.status.written v }) ∨
    (s.status.busy = false ∧ 3 ≤ a.toNat ∧ a.toNat ≤ 9 ∧ ∃ o, busWrite a v s = { s with operands := o }) := by
  have key : ∀ a : Addr, regAt a = none → ¬ (a.toNat = 1 ∨ 3 ≤ a.toNat ∧ a.toNat ≤ 9) := by decide
  unfold busWrite
  cases hr : regAt a with
  | none => exact .inl ⟨rfl, key a hr⟩
  | some r =>
    have ha : r.addr = a := by simpa using List.find?_some hr
    subst ha
    cases hb : s.status.busy <;> cases r <;> simp [writeReg, State.writeOperands, hb, Reg.addr]

/-- A host write leaves R, the result registers, the host and the cycle counter alone. -/
theorem busWrite_frame (a : Addr) (v : Word) (s : State) :
    (busWrite a v s).resistor = s.resistor ∧ (busWrite a v s).normOut = s.normOut ∧
      (busWrite a v s).qOut = s.qOut ∧ (busWrite a v s).host = s.host ∧ (busWrite a v s).cycle = s.cycle := by
  rcases busWrite_cases a v s with ⟨h, -⟩ | ⟨-, -, h⟩ | ⟨-, -, h⟩ | ⟨-, h⟩ | ⟨-, -, -, o, h⟩ <;>
    rw [h] <;> exact ⟨rfl, rfl, rfl, rfl, rfl⟩

/-- While BUSY a host write changes E_BUSYWR alone (R63, R62 word 2). -/
theorem busWrite_busy {s : State} (hb : s.status.busy = true) (a : Addr) (v : Word) :
    ∃ e : Bool, busWrite a v s = { s with status := { s.status with eBusywr := e } } := by
  rcases busWrite_cases a v s with ⟨h, -⟩ | ⟨-, -, h⟩ | ⟨hf, -⟩ | ⟨-, h⟩ | ⟨hf, -⟩
  · exact ⟨s.status.eBusywr, h⟩
  · exact ⟨true, h⟩
  · rw [hb] at hf; exact absurd hf (by decide)
  · exact ⟨s.status.eBusywr && !v.getLsbD 13, h⟩
  · rw [hb] at hf; exact absurd hf (by decide)

/-- The host's access of a cycle leaves R and the result registers alone. -/
theorem portWrite_frame (c : BusCycle) (s : State) :
    (portWrite c s).resistor = s.resistor ∧ (portWrite c s).normOut = s.normOut ∧ (portWrite c s).qOut = s.qOut := by
  unfold portWrite
  split
  · exact ⟨(busWrite_frame _ _ _).1, (busWrite_frame _ _ _).2.1, (busWrite_frame _ _ _).2.2.1⟩
  · exact ⟨rfl, rfl, rfl⟩

/-- While BUSY the host's access of a cycle changes E_BUSYWR alone. -/
theorem portWrite_busy {s : State} (hb : s.status.busy = true) (c : BusCycle) :
    ∃ e : Bool, portWrite c s = { s with status := { s.status with eBusywr := e } } := by
  unfold portWrite
  split
  · exact busWrite_busy hb _ _
  · exact ⟨s.status.eBusywr, rfl⟩

/-- What a step can do: reset; with nothing pending the host's access alone; the commit of the pending command on top
of the host's access; or one cycle of the countdown on top of it. -/
theorem step_cases (s : State) :
    (s.host.signals.rst = true ∧ step s = .next (resetEdge s.host.signals s)) ∨
    (s.host.signals.rst = false ∧ s.pend = none ∧ step s = .next (hostEdge s.host.signals s)) ∨
    (s.host.signals.rst = false ∧ ∃ p, s.pend = some p ∧ p.remaining ≤ 1 ∧
      step s = execWord p.word (hostEdge s.host.signals s)) ∨
    (s.host.signals.rst = false ∧ ∃ p, s.pend = some p ∧ 1 < p.remaining ∧
      step s = .next { hostEdge s.host.signals s with pend := some { p with remaining := p.remaining - 1 } }) := by
  unfold step clockEdge engineEdge
  cases hr : s.host.signals.rst with
  | true => left; simp
  | false =>
    right
    cases hp : s.pend with
    | none => left; simp
    | some p =>
      right
      by_cases h : p.remaining ≤ 1
      · left; exact ⟨rfl, p, rfl, h, by simp [h]⟩
      · right; exact ⟨rfl, p, rfl, by omega, by simp [h]⟩

/-- The outcome of a command depends on the snapshot and on R alone. -/
theorem outcomeOf_congr {s s' : State} (hs : s.snap = s'.snap) (hr : s.resistor = s'.resistor) (i : Instr) :
    outcomeOf i s = outcomeOf i s' := by
  cases i <;> simp only [outcomeOf, hs, hr]

end Sys2Proof.Machine
end

