-- ==== Sys2Proof/Laws/Outcome.lean ====
section
/-! SUPPORT. A command word as one commit of its outcome, what the outcome depends on, and what its errors can be. -/

namespace Sys2Proof.Machine

/-- The outcome a command word commits (R50, R232). -/
def wordOutcome (w : Word) (s : State) : CmdOutcome :=
  match decode w with
  | .ok i => outcomeOf i s
  | .error _ => .err [.eCmd] 0 {}

/-- Executing a command word is one commit of its outcome. -/
theorem execWord_eq_commit (w : Word) (s : State) : execWord w s = .next (s.commit (wordOutcome w s)) := by
  unfold execWord wordOutcome
  cases decode w with
  | ok i => exact exec_eq i s
  | error e => rfl

/-- The outcome of a command word depends on the snapshot and on R alone. -/
theorem wordOutcome_congr {s s' : State} (hs : s.snap = s'.snap) (hr : s.resistor = s'.resistor) (w : Word) :
    wordOutcome w s = wordOutcome w s' := by
  unfold wordOutcome
  cases decode w with
  | ok i => exact outcomeOf_congr hs hr i
  | error e => rfl

/-- A commit does not look at the host or at the cycle counter. -/
theorem State.commit_withHost (o : CmdOutcome) (s : State) (h : HostAgent) (n : Nat) :
    State.commit o { s with host := h, cycle := n } = { s.commit o with host := h, cycle := n } := by
  cases o <;> rfl

/-- A host write does not look at the host agent. -/
theorem busWrite_withHost (a : Addr) (v : Word) (s : State) (h : HostAgent) :
    busWrite a v { s with host := h } = { busWrite a v s with host := h } := by
  unfold busWrite
  cases regAt a with
  | none => rfl
  | some r => cases hb : s.status.busy <;> cases r <;> simp [writeReg, State.writeOperands, hb] <;> rfl

/-- The constructor's errors: one cause, and no register cleared. -/
theorem constructOutcome_err {L : Nat} {seq : List Nat} {cs : List Cause} {pos : Nat} {e : Effects}
    (h : constructOutcome L seq = .err cs pos e) : (cs = [.eCount] ∨ cs = [.eColor]) ∧ e = {} := by
  rcases constructOutcome_cases L seq with ⟨-, h'⟩ | ⟨-, i, -, -, -, h'⟩ | ⟨-, -, h'⟩ <;> rw [h'] at h <;> cases h
  · exact ⟨.inl rfl, rfl⟩
  · exact ⟨.inr rfl, rfl⟩

/-- The layout selection's errors (R187 to R189). -/
theorem select_err {ds : List Nat} {x : Int} {t c : Option Nat} {cause : Cause} (h : select ds x t c = .error cause) :
    cause = .eNotrep ∨ cause = .eMisstol ∨ cause = .eNolayout := by
  revert h
  unfold select layout
  split <;> (repeat' split) <;> simp +contextual [eq_comm]

/-- What an error of a command can be: at least one cause and never E_BUSYWR; NORM_OUT cleared exactly by NORMALIZE,
Q_OUT exactly by a lookup (R244). -/
theorem outcomeOf_err {i : Instr} {s : State} {cs : List Cause} {pos : Nat} {e : Effects}
    (h : outcomeOf i s = .err cs pos e) :
    cs ≠ [] ∧ Cause.eBusywr ∉ cs ∧ e.normOut = (if i = .normalize then some 0 else none) ∧
      e.qOut = (if isLookupCommand i = true then some 0 else none) := by
  have lookup : ∀ v, lookupOutcome v = .err cs pos e →
      cs ≠ [] ∧ Cause.eBusywr ∉ cs ∧ e.normOut = none ∧ e.qOut = some 0 := by
    intro v hv
    rcases lookupOutcome_cases v with ⟨q, -, h'⟩ | ⟨-, h'⟩ <;> rw [h'] at hv <;> cases hv
    simp
  have constr : ∀ n sq, constructOutcome n sq = .err cs pos e →
      cs ≠ [] ∧ Cause.eBusywr ∉ cs ∧ e.normOut = none ∧ e.qOut = none := by
    intro n sq hv
    rcases constructOutcome_err hv with ⟨rfl | rfl, rfl⟩ <;> simp
  cases i <;> simp only [outcomeOf] at h
  case nop => cases h
  case construct => simpa [isLookupCommand] using constr _ _ h
  case withColor =>
    rcases withColorOutcome_cases s.resistor _ _ with ⟨-, h'⟩ | ⟨-, -, h'⟩ | ⟨-, -, h'⟩ <;> rw [h'] at h
    · cases h; simp [isLookupCommand]
    · cases h; simp [isLookupCommand]
    · simpa [isLookupCommand] using constr _ _ h
  case normalize =>
    rcases normalizeOutcome_cases s.snap with ⟨_, _, -, h'⟩ | ⟨-, h'⟩ <;> rw [h'] at h <;> cases h
    simp [isLookupCommand]
  case determine =>
    rcases determineOutcome_cases s.snap with ⟨hne, h'⟩ | ⟨ds, x, -, -, -, h'⟩ <;> rw [h'] at h
    · cases h
      refine ⟨hne, ?_, by simp, by simp [isLookupCommand]⟩
      simp only [stepErrors, List.mem_append, not_or]
      refine ⟨⟨?_, ?_⟩, ?_⟩ <;> split <;> simp
    · unfold resolveLayout at h
      split at h
      · simpa [isLookupCommand] using constr _ _ h
      · rename_i cause hsel
        cases h
        rcases select_err hsel with rfl | rfl | rfl <;> simp [isLookupCommand]
  all_goals simpa [isLookupCommand] using lookup _ h

end Sys2Proof.Machine
end

