-- ==== Sys2Proof/Laws/PerInstr.lean ====
section
/-! SUPPORT. The per-instruction family OpcodeByte: the opcode byte of every encoded command is listed in the table of
R85. -/

namespace Sys2Proof.Laws.OpcodeByte

/-- The opcode of a well-formed command's word is one the table lists (R80, R85). -/
def Statement (i : Instr) : Prop := i.WellFormed = true → opcodeListed (opcodeField (encode i)) = true

/-- The opcode byte is the word's number modulo 256. -/
theorem opcodeField_ofNat (n : Nat) : opcodeField (BitVec.ofNat 32 n) = n % 256 := by
  simp only [opcodeField, field, BitVec.extractLsb_toNat, BitVec.toNat_ofNat]
  simp only [Nat.shiftRight_zero]
  omega

theorem nop : Statement .nop := by unfold Statement; decide
theorem construct : Statement .construct := by unfold Statement; decide
theorem determine : Statement .determine := by unfold Statement; decide
theorem normalize : Statement .normalize := by unfold Statement; decide
theorem lutTolinv : Statement .lutTolinv := by unfold Statement; decide
theorem lutTcrinv : Statement .lutTcrinv := by unfold Statement; decide

/-- A field shifted to bit 8 or above does not reach the opcode byte. -/
theorem listed_of_mod (op n : Nat) (h : opcodeListed op = true) (hn : n % 256 = op) :
    opcodeListed (opcodeField (BitVec.ofNat 32 n)) = true := by
  rw [opcodeField_ofNat, hn]; exact h

theorem withColor (color pos : Nat) : Statement (.withColor color pos) := fun _ =>
  listed_of_mod 3 _ rfl (by simp only [Nat.shiftLeft_eq]; omega)

theorem lutDigit (sym : Nat) : Statement (.lutDigit sym) := fun _ =>
  listed_of_mod 0x10 _ rfl (by simp only [Nat.shiftLeft_eq]; omega)

theorem lutDigexp (sym : Nat) : Statement (.lutDigexp sym) := fun _ =>
  listed_of_mod 0x11 _ rfl (by simp only [Nat.shiftLeft_eq]; omega)

theorem lutTol (sym : Nat) : Statement (.lutTol sym) := fun _ =>
  listed_of_mod 0x12 _ rfl (by simp only [Nat.shiftLeft_eq]; omega)

theorem lutTcr (sym : Nat) : Statement (.lutTcr sym) := fun _ =>
  listed_of_mod 0x13 _ rfl (by simp only [Nat.shiftLeft_eq]; omega)

theorem lutMatrix (sym pos cnt : Nat) : Statement (.lutMatrix sym pos cnt) := fun _ =>
  listed_of_mod 0x16 _ rfl (by simp only [Nat.shiftLeft_eq]; omega)

end Sys2Proof.Laws.OpcodeByte
end

