-- ==== Sys2Proof/Laws/Resolver.lean ====
section
/-! SUPPORT. The pieces of R183: the compaction loop in closed form, the digits of numbers below 1000, and the comparison with
the two-digit limit. -/

namespace Sys2Proof.Machine

theorem mustCompact_iff (small : Bool) (s : Nat) :
    mustCompact small s = true ↔ 1000 ≤ s ∨ (100 ≤ s ∧ s % 10 = 0 ∧ small = true) := by
  simp [mustCompact, and_assoc]

theorem inExpRange_iff (x : Int) : inExpRange x = true ↔ -3 ≤ x ∧ x ≤ 9 := by simp [inExpRange]

/-- The compaction of m × 10^i stops at m × 10^t when it must go on above t and must stop there. -/
theorem compact_pow (small : Bool) (m t : Nat) (hm : 1 ≤ m) :
    ∀ (d fuel : Nat) (x : Int), m * 10 ^ (t + d) ≤ fuel →
      (∀ j, t < j → j ≤ t + d → mustCompact small (m * 10 ^ j) = true) → mustCompact small (m * 10 ^ t) = false →
      compact small fuel (m * 10 ^ (t + d)) x = (m * 10 ^ t, x + (d : Nat)) := by
  intro d
  induction d with
  | zero =>
    intro fuel x _ _ hs
    cases fuel with
    | zero => simp [compact]
    | succ fuel => simp [compact, hs]
  | succ d ih =>
    intro fuel x hf hgo hs
    have hpos : 1 ≤ m * 10 ^ (t + d) := Nat.one_le_iff_ne_zero.mpr (by positivity)
    have he : m * 10 ^ (t + (d + 1)) = m * 10 ^ (t + d) * 10 := by rw [← Nat.add_assoc, pow_succ, mul_assoc]
    cases fuel with
    | zero => omega
    | succ fuel =>
      have hgo1 := hgo (t + (d + 1)) (by omega) (by omega)
      simp only [compact, hgo1, if_true]
      have hdiv : m * 10 ^ (t + (d + 1)) / 10 = m * 10 ^ (t + d) := by omega
      rw [hdiv, ih fuel (x + 1) (by omega) (fun j h1 h2 => hgo j h1 (by omega)) hs]
      push_cast
      congr 1
      ring

/-- The digits of a two-digit number. -/
theorem digitsOf_two {s : Nat} (h1 : 10 ≤ s) (h2 : s < 100) : digitsOf s = [s / 10, s % 10] := by
  interval_cases s <;> rfl

theorem digitsOf_one {s : Nat} (h1 : 1 ≤ s) (h2 : s < 10) : digitsOf s = [s] := by
  interval_cases s <;> rfl

theorem ndigits_one {m : Nat} (h1 : 1 ≤ m) (h2 : m < 10) : ndigits m = 1 := by interval_cases m <;> rfl

theorem ndigits_two {m : Nat} (h1 : 10 ≤ m) (h2 : m < 100) : ndigits m = 2 := by
  have a := (ndigits_le_iff (m := m) (by omega) 2).mpr (by omega)
  have b := (ndigits_le_iff (m := m) (by omega) 1).not.mpr (by omega)
  omega

theorem ndigits_three {m : Nat} (h1 : 100 ≤ m) (h2 : m < 1000) : ndigits m = 3 := by
  have a := (ndigits_le_iff (m := m) (by omega) 3).mpr (by omega)
  have b := (ndigits_le_iff (m := m) (by omega) 2).not.mpr (by omega)
  omega

theorem digitsOf_three {s : Nat} (h1 : 100 ≤ s) (h2 : s < 1000) :
    digitsOf s = [s / 100, s / 10 % 10, s % 10] := by
  simp [digitsOf, digitAt, ndigits_three h1 h2, List.range_succ]
  omega

/-- `decimalAtMost` compares the numbers denoted: for a whole number, by its coefficient times the power. -/
theorem decimalAtMost_shift (m k : Nat) (E : Int) (b : Nat) :
    decimalAtMost (m * 10 ^ k) E b = decimalAtMost m (E + (k : Nat)) b := by
  unfold decimalAtMost
  by_cases h1 : 0 ≤ E
  · have h2 : 0 ≤ E + (k : Int) := by omega
    have : (E + (k : Int)).toNat = k + E.toNat := by omega
    simp [h1, h2, this, pow_add, mul_assoc]
  · by_cases h2 : 0 ≤ E + (k : Int)
    · have : k = (E + (k : Int)).toNat + (-E).toNat := by omega
      simp only [h1, h2, if_false, if_true]
      congr 1
      conv_lhs => rw [this]
      rw [pow_add, ← mul_assoc]
      exact propext (Nat.mul_le_mul_right_iff (by positivity))
    · have : (-E).toNat = (-(E + (k : Int))).toNat + k := by omega
      simp only [h1, h2, if_false]
      congr 1
      rw [this, pow_add, ← mul_assoc]
      exact propext (Nat.mul_le_mul_right_iff (by positivity))

end Sys2Proof.Machine
end

