-- ==== Sys2Proof/Laws/State.lean ====
section
/-! SUPPORT. One lemma per field per update of the state and of STATUS, so that no later proof unfolds a record
update. -/

namespace Sys2Proof.Machine

section StateUpdates

variable (s : State)

@[simp] theorem State.succeed_operands (e : Effects) : (s.succeed e).operands = s.operands := rfl
@[simp] theorem State.succeed_resistor (e : Effects) : (s.succeed e).resistor = e.resistor.getD s.resistor := rfl
@[simp] theorem State.succeed_normOut (e : Effects) : (s.succeed e).normOut = e.normOut.getD s.normOut := rfl
@[simp] theorem State.succeed_qOut (e : Effects) : (s.succeed e).qOut = e.qOut.getD s.qOut := rfl
@[simp] theorem State.succeed_status (e : Effects) : (s.succeed e).status = s.status.succeeded := rfl
@[simp] theorem State.succeed_pend (e : Effects) : (s.succeed e).pend = none := rfl
@[simp] theorem State.succeed_host (e : Effects) : (s.succeed e).host = s.host := rfl
@[simp] theorem State.succeed_cycle (e : Effects) : (s.succeed e).cycle = s.cycle := rfl

@[simp] theorem State.raise_operands (causes : List Cause) (pos : Nat) (e : Effects) : (s.raise causes pos e).operands = s.operands := rfl
@[simp] theorem State.raise_resistor (causes : List Cause) (pos : Nat) (e : Effects) : (s.raise causes pos e).resistor = s.resistor := rfl
@[simp] theorem State.raise_normOut (causes : List Cause) (pos : Nat) (e : Effects) : (s.raise causes pos e).normOut = e.normOut.getD s.normOut := rfl
@[simp] theorem State.raise_qOut (causes : List Cause) (pos : Nat) (e : Effects) : (s.raise causes pos e).qOut = e.qOut.getD s.qOut := rfl
@[simp] theorem State.raise_status (causes : List Cause) (pos : Nat) (e : Effects) : (s.raise causes pos e).status = s.status.failed causes pos := rfl
@[simp] theorem State.raise_pend (causes : List Cause) (pos : Nat) (e : Effects) : (s.raise causes pos e).pend = none := rfl
@[simp] theorem State.raise_host (causes : List Cause) (pos : Nat) (e : Effects) : (s.raise causes pos e).host = s.host := rfl
@[simp] theorem State.raise_cycle (causes : List Cause) (pos : Nat) (e : Effects) : (s.raise causes pos e).cycle = s.cycle := rfl

@[simp] theorem State.place_operands (w : Word) (n : Nat) : (s.place w n).operands = s.operands := rfl
@[simp] theorem State.place_resistor (w : Word) (n : Nat) : (s.place w n).resistor = s.resistor := rfl
@[simp] theorem State.place_normOut (w : Word) (n : Nat) : (s.place w n).normOut = s.normOut := rfl
@[simp] theorem State.place_qOut (w : Word) (n : Nat) : (s.place w n).qOut = s.qOut := rfl
@[simp] theorem State.place_status (w : Word) (n : Nat) : (s.place w n).status = s.status.issued := rfl
@[simp] theorem State.place_pend (w : Word) (n : Nat) : (s.place w n).pend = some ⟨w, s.operands, n⟩ := rfl
@[simp] theorem State.place_host (w : Word) (n : Nat) : (s.place w n).host = s.host := rfl
@[simp] theorem State.place_cycle (w : Word) (n : Nat) : (s.place w n).cycle = s.cycle := rfl

@[simp] theorem State.dropWrite_operands : (s.dropWrite).operands = s.operands := rfl
@[simp] theorem State.dropWrite_resistor : (s.dropWrite).resistor = s.resistor := rfl
@[simp] theorem State.dropWrite_normOut : (s.dropWrite).normOut = s.normOut := rfl
@[simp] theorem State.dropWrite_qOut : (s.dropWrite).qOut = s.qOut := rfl
@[simp] theorem State.dropWrite_status : (s.dropWrite).status = s.status.writeDropped := rfl
@[simp] theorem State.dropWrite_pend : (s.dropWrite).pend = s.pend := rfl
@[simp] theorem State.dropWrite_host : (s.dropWrite).host = s.host := rfl
@[simp] theorem State.dropWrite_cycle : (s.dropWrite).cycle = s.cycle := rfl

@[simp] theorem State.withProgram_operands (p : List HostStep) : (s.withProgram p).operands = s.operands := rfl
@[simp] theorem State.withProgram_resistor (p : List HostStep) : (s.withProgram p).resistor = s.resistor := rfl
@[simp] theorem State.withProgram_normOut (p : List HostStep) : (s.withProgram p).normOut = s.normOut := rfl
@[simp] theorem State.withProgram_qOut (p : List HostStep) : (s.withProgram p).qOut = s.qOut := rfl
@[simp] theorem State.withProgram_status (p : List HostStep) : (s.withProgram p).status = s.status := rfl
@[simp] theorem State.withProgram_pend (p : List HostStep) : (s.withProgram p).pend = s.pend := rfl
@[simp] theorem State.withProgram_host (p : List HostStep) : (s.withProgram p).host = ⟨p, s.host.rdata, s.host.recorded⟩ := rfl
@[simp] theorem State.withProgram_cycle (p : List HostStep) : (s.withProgram p).cycle = s.cycle := rfl

end StateUpdates

section StatusUpdates

variable (st : Status)

@[simp] theorem Status.succeeded_busy : (st.succeeded).busy = false := rfl
@[simp] theorem Status.succeeded_ok : (st.succeeded).ok = true := rfl
@[simp] theorem Status.succeeded_eCmd : (st.succeeded).eCmd = st.eCmd := rfl
@[simp] theorem Status.succeeded_eCount : (st.succeeded).eCount = st.eCount := rfl
@[simp] theorem Status.succeeded_eColor : (st.succeeded).eColor = st.eColor := rfl
@[simp] theorem Status.succeeded_eTol : (st.succeeded).eTol = st.eTol := rfl
@[simp] theorem Status.succeeded_eTcr : (st.succeeded).eTcr = st.eTcr := rfl
@[simp] theorem Status.succeeded_eNotrep : (st.succeeded).eNotrep = st.eNotrep := rfl
@[simp] theorem Status.succeeded_eMisstol : (st.succeeded).eMisstol = st.eMisstol := rfl
@[simp] theorem Status.succeeded_eNolayout : (st.succeeded).eNolayout = st.eNolayout := rfl
@[simp] theorem Status.succeeded_eBounds : (st.succeeded).eBounds = st.eBounds := rfl
@[simp] theorem Status.succeeded_eNores : (st.succeeded).eNores = st.eNores := rfl
@[simp] theorem Status.succeeded_eUndef : (st.succeeded).eUndef = st.eUndef := rfl
@[simp] theorem Status.succeeded_eBusywr : (st.succeeded).eBusywr = st.eBusywr := rfl
@[simp] theorem Status.succeeded_errPos : (st.succeeded).errPos = st.errPos := rfl

@[simp] theorem Status.writeDropped_busy : (st.writeDropped).busy = st.busy := rfl
@[simp] theorem Status.writeDropped_ok : (st.writeDropped).ok = st.ok := rfl
@[simp] theorem Status.writeDropped_eCmd : (st.writeDropped).eCmd = st.eCmd := rfl
@[simp] theorem Status.writeDropped_eCount : (st.writeDropped).eCount = st.eCount := rfl
@[simp] theorem Status.writeDropped_eColor : (st.writeDropped).eColor = st.eColor := rfl
@[simp] theorem Status.writeDropped_eTol : (st.writeDropped).eTol = st.eTol := rfl
@[simp] theorem Status.writeDropped_eTcr : (st.writeDropped).eTcr = st.eTcr := rfl
@[simp] theorem Status.writeDropped_eNotrep : (st.writeDropped).eNotrep = st.eNotrep := rfl
@[simp] theorem Status.writeDropped_eMisstol : (st.writeDropped).eMisstol = st.eMisstol := rfl
@[simp] theorem Status.writeDropped_eNolayout : (st.writeDropped).eNolayout = st.eNolayout := rfl
@[simp] theorem Status.writeDropped_eBounds : (st.writeDropped).eBounds = st.eBounds := rfl
@[simp] theorem Status.writeDropped_eNores : (st.writeDropped).eNores = st.eNores := rfl
@[simp] theorem Status.writeDropped_eUndef : (st.writeDropped).eUndef = st.eUndef := rfl
@[simp] theorem Status.writeDropped_eBusywr : (st.writeDropped).eBusywr = true := rfl
@[simp] theorem Status.writeDropped_errPos : (st.writeDropped).errPos = st.errPos := rfl

@[simp] theorem Status.written_busy (v : BitVec 32) : (st.written v).busy = st.busy := rfl
@[simp] theorem Status.written_ok (v : BitVec 32) : (st.written v).ok = st.ok := rfl
@[simp] theorem Status.written_eCmd (v : BitVec 32) : (st.written v).eCmd = st.eCmd := rfl
@[simp] theorem Status.written_eCount (v : BitVec 32) : (st.written v).eCount = st.eCount := rfl
@[simp] theorem Status.written_eColor (v : BitVec 32) : (st.written v).eColor = st.eColor := rfl
@[simp] theorem Status.written_eTol (v : BitVec 32) : (st.written v).eTol = st.eTol := rfl
@[simp] theorem Status.written_eTcr (v : BitVec 32) : (st.written v).eTcr = st.eTcr := rfl
@[simp] theorem Status.written_eNotrep (v : BitVec 32) : (st.written v).eNotrep = st.eNotrep := rfl
@[simp] theorem Status.written_eMisstol (v : BitVec 32) : (st.written v).eMisstol = st.eMisstol := rfl
@[simp] theorem Status.written_eNolayout (v : BitVec 32) : (st.written v).eNolayout = st.eNolayout := rfl
@[simp] theorem Status.written_eBounds (v : BitVec 32) : (st.written v).eBounds = st.eBounds := rfl
@[simp] theorem Status.written_eNores (v : BitVec 32) : (st.written v).eNores = st.eNores := rfl
@[simp] theorem Status.written_eUndef (v : BitVec 32) : (st.written v).eUndef = st.eUndef := rfl
@[simp] theorem Status.written_eBusywr (v : BitVec 32) : (st.written v).eBusywr = (st.eBusywr && !v.getLsbD 13) := rfl
@[simp] theorem Status.written_errPos (v : BitVec 32) : (st.written v).errPos = st.errPos := rfl

@[simp] theorem Status.issued_busy : (st.issued).busy = true := rfl
@[simp] theorem Status.issued_ok : (st.issued).ok = false := rfl
@[simp] theorem Status.issued_eCmd : (st.issued).eCmd = false := rfl
@[simp] theorem Status.issued_eCount : (st.issued).eCount = false := rfl
@[simp] theorem Status.issued_eColor : (st.issued).eColor = false := rfl
@[simp] theorem Status.issued_eTol : (st.issued).eTol = false := rfl
@[simp] theorem Status.issued_eTcr : (st.issued).eTcr = false := rfl
@[simp] theorem Status.issued_eNotrep : (st.issued).eNotrep = false := rfl
@[simp] theorem Status.issued_eMisstol : (st.issued).eMisstol = false := rfl
@[simp] theorem Status.issued_eNolayout : (st.issued).eNolayout = false := rfl
@[simp] theorem Status.issued_eBounds : (st.issued).eBounds = false := rfl
@[simp] theorem Status.issued_eNores : (st.issued).eNores = false := rfl
@[simp] theorem Status.issued_eUndef : (st.issued).eUndef = false := rfl
@[simp] theorem Status.issued_eBusywr : (st.issued).eBusywr = st.eBusywr := rfl
@[simp] theorem Status.issued_errPos : (st.issued).errPos = 0 := rfl

@[simp] theorem Status.setFlags_busy (causes : List Cause) : (st.setFlags causes).busy = st.busy := rfl
@[simp] theorem Status.setFlags_ok (causes : List Cause) : (st.setFlags causes).ok = st.ok := rfl
@[simp] theorem Status.setFlags_eCmd (causes : List Cause) : (st.setFlags causes).eCmd = (st.eCmd || causes.contains .eCmd) := rfl
@[simp] theorem Status.setFlags_eCount (causes : List Cause) : (st.setFlags causes).eCount = (st.eCount || causes.contains .eCount) := rfl
@[simp] theorem Status.setFlags_eColor (causes : List Cause) : (st.setFlags causes).eColor = (st.eColor || causes.contains .eColor) := rfl
@[simp] theorem Status.setFlags_eTol (causes : List Cause) : (st.setFlags causes).eTol = (st.eTol || causes.contains .eTol) := rfl
@[simp] theorem Status.setFlags_eTcr (causes : List Cause) : (st.setFlags causes).eTcr = (st.eTcr || causes.contains .eTcr) := rfl
@[simp] theorem Status.setFlags_eNotrep (causes : List Cause) : (st.setFlags causes).eNotrep = (st.eNotrep || causes.contains .eNotrep) := rfl
@[simp] theorem Status.setFlags_eMisstol (causes : List Cause) : (st.setFlags causes).eMisstol = (st.eMisstol || causes.contains .eMisstol) := rfl
@[simp] theorem Status.setFlags_eNolayout (causes : List Cause) : (st.setFlags causes).eNolayout = (st.eNolayout || causes.contains .eNolayout) := rfl
@[simp] theorem Status.setFlags_eBounds (causes : List Cause) : (st.setFlags causes).eBounds = (st.eBounds || causes.contains .eBounds) := rfl
@[simp] theorem Status.setFlags_eNores (causes : List Cause) : (st.setFlags causes).eNores = (st.eNores || causes.contains .eNores) := rfl
@[simp] theorem Status.setFlags_eUndef (causes : List Cause) : (st.setFlags causes).eUndef = (st.eUndef || causes.contains .eUndef) := rfl
@[simp] theorem Status.setFlags_eBusywr (causes : List Cause) : (st.setFlags causes).eBusywr = (st.eBusywr || causes.contains .eBusywr) := rfl
@[simp] theorem Status.setFlags_errPos (causes : List Cause) : (st.setFlags causes).errPos = st.errPos := rfl

@[simp] theorem Status.failed_busy (causes : List Cause) (pos : Nat) : (st.failed causes pos).busy = false := rfl
@[simp] theorem Status.failed_ok (causes : List Cause) (pos : Nat) : (st.failed causes pos).ok = false := rfl
@[simp] theorem Status.failed_eCmd (causes : List Cause) (pos : Nat) : (st.failed causes pos).eCmd = (st.eCmd || causes.contains .eCmd) := rfl
@[simp] theorem Status.failed_eCount (causes : List Cause) (pos : Nat) : (st.failed causes pos).eCount = (st.eCount || causes.contains .eCount) := rfl
@[simp] theorem Status.failed_eColor (causes : List Cause) (pos : Nat) : (st.failed causes pos).eColor = (st.eColor || causes.contains .eColor) := rfl
@[simp] theorem Status.failed_eTol (causes : List Cause) (pos : Nat) : (st.failed causes pos).eTol = (st.eTol || causes.contains .eTol) := rfl
@[simp] theorem Status.failed_eTcr (causes : List Cause) (pos : Nat) : (st.failed causes pos).eTcr = (st.eTcr || causes.contains .eTcr) := rfl
@[simp] theorem Status.failed_eNotrep (causes : List Cause) (pos : Nat) : (st.failed causes pos).eNotrep = (st.eNotrep || causes.contains .eNotrep) := rfl
@[simp] theorem Status.failed_eMisstol (causes : List Cause) (pos : Nat) : (st.failed causes pos).eMisstol = (st.eMisstol || causes.contains .eMisstol) := rfl
@[simp] theorem Status.failed_eNolayout (causes : List Cause) (pos : Nat) : (st.failed causes pos).eNolayout = (st.eNolayout || causes.contains .eNolayout) := rfl
@[simp] theorem Status.failed_eBounds (causes : List Cause) (pos : Nat) : (st.failed causes pos).eBounds = (st.eBounds || causes.contains .eBounds) := rfl
@[simp] theorem Status.failed_eNores (causes : List Cause) (pos : Nat) : (st.failed causes pos).eNores = (st.eNores || causes.contains .eNores) := rfl
@[simp] theorem Status.failed_eUndef (causes : List Cause) (pos : Nat) : (st.failed causes pos).eUndef = (st.eUndef || causes.contains .eUndef) := rfl
@[simp] theorem Status.failed_eBusywr (causes : List Cause) (pos : Nat) : (st.failed causes pos).eBusywr = (st.eBusywr || causes.contains .eBusywr) := rfl
@[simp] theorem Status.failed_errPos (causes : List Cause) (pos : Nat) : (st.failed causes pos).errPos = BitVec.ofNat 3 pos := rfl

/-- The flag of a cause after a failing commit. -/
@[simp] theorem Status.failed_flag (causes : List Cause) (pos : Nat) (c : Cause) :
    (st.failed causes pos).flag c = (st.flag c || causes.contains c) := by cases c <;> rfl

/-- A succeeding commit leaves every flag. -/
@[simp] theorem Status.succeeded_flag (c : Cause) : st.succeeded.flag c = st.flag c := by cases c <;> rfl

end StatusUpdates

section HostUpdates

variable (s : State) (c : BusCycle)

@[simp] theorem hostEdge_host : (hostEdge c s).host = s.host.advance (portRdata c s) := rfl
@[simp] theorem hostEdge_cycle : (hostEdge c s).cycle = s.cycle + 1 := rfl
@[simp] theorem hostEdge_operands : (hostEdge c s).operands = (portWrite c s).operands := rfl
@[simp] theorem hostEdge_resistor : (hostEdge c s).resistor = (portWrite c s).resistor := rfl
@[simp] theorem hostEdge_normOut : (hostEdge c s).normOut = (portWrite c s).normOut := rfl
@[simp] theorem hostEdge_qOut : (hostEdge c s).qOut = (portWrite c s).qOut := rfl
@[simp] theorem hostEdge_status : (hostEdge c s).status = (portWrite c s).status := rfl
@[simp] theorem hostEdge_pend : (hostEdge c s).pend = (portWrite c s).pend := rfl

@[simp] theorem resetEdge_host : (resetEdge c s).host = s.host.advance (resetRdata c s) := rfl
@[simp] theorem resetEdge_cycle : (resetEdge c s).cycle = s.cycle + 1 := rfl
@[simp] theorem resetEdge_operands : (resetEdge c s).operands = Operands.reset := rfl
@[simp] theorem resetEdge_resistor : (resetEdge c s).resistor = Resistor.empty := rfl
@[simp] theorem resetEdge_normOut : (resetEdge c s).normOut = 0 := rfl
@[simp] theorem resetEdge_qOut : (resetEdge c s).qOut = 0 := rfl
@[simp] theorem resetEdge_status : (resetEdge c s).status = Status.reset := rfl
@[simp] theorem resetEdge_pend : (resetEdge c s).pend = none := rfl

end HostUpdates

end Sys2Proof.Machine
end

