-- ==== Sys2Proof/Laws/Views.lean ====
section
/-! SUPPORT. What each word of the port reads, and what the register map and the SPEC views say, once. -/

namespace Sys2Proof.Machine

section Words

variable (s : State)

@[simp] theorem busRead_id : busRead 0 s = Config.identity := rfl
@[simp] theorem busRead_cmd : busRead 1 s = 0 := rfl
@[simp] theorem busRead_status : busRead 2 s = s.status.word := rfl
@[simp] theorem busRead_seqIn : busRead 3 s = s.operands.seqIn.zeroExtend 32 := rfl
@[simp] theorem busRead_resMLo : busRead 4 s = s.operands.resMLo := rfl
@[simp] theorem busRead_resMHi : busRead 5 s = s.operands.resMHi := rfl
@[simp] theorem busRead_resE : busRead 6 s = s.operands.resE.zeroExtend 32 := rfl
@[simp] theorem busRead_tolM : busRead 7 s = s.operands.tolM := rfl
@[simp] theorem busRead_optCtl : busRead 8 s = s.operands.optCtl.zeroExtend 32 := rfl
@[simp] theorem busRead_tcrV : busRead 9 s = s.operands.tcrV := rfl
@[simp] theorem busRead_rState : busRead 16 s = rStateWord s.resistor := rfl
@[simp] theorem busRead_specOhm : busRead 17 s = specView specOhmWord s.resistor := rfl
@[simp] theorem busRead_specTol : busRead 18 s = specView specTolWord s.resistor := rfl
@[simp] theorem busRead_specMin : busRead 19 s = specView specMinWord s.resistor := rfl
@[simp] theorem busRead_specMax : busRead 20 s = specView specMaxWord s.resistor := rfl
@[simp] theorem busRead_normOut : busRead 21 s = s.normOut := rfl
@[simp] theorem busRead_qOut : busRead 22 s = s.qOut := rfl

end Words

/-- A reserved word holds no register (R23, R34). -/
theorem regAt_reserved (a : Addr) (h : (10 ≤ a.toNat ∧ a.toNat ≤ 15) ∨ 23 ≤ a.toNat) : regAt a = none := by
  revert a
  decide

/-- The register found at a word has that word's address (R23). -/
theorem regAt_addr {a : Addr} {r : Reg} (h : regAt a = some r) : r.addr = a := by
  simpa using List.find?_some h

/-- Every register is found at its address: no two share a word (R23). -/
theorem regAt_of_addr (r : Reg) : regAt r.addr = some r := by
  cases r <;> rfl

/-- The SPEC views of a resistor that decodes, and of one that does not (R160). -/
theorem specView_some {r : Resistor} {p : Specs} (word : Specs → Word) (h : specs r = some p) :
    specView word r = word p := by
  simp [specView, h]

theorem specView_none {r : Resistor} (word : Specs → Word) (h : specs r = none) : specView word r = 0 := by
  simp [specView, h]

/-- Without a valid resistor nothing is decoded (R160). -/
theorem specs_invalid {r : Resistor} (h : r.valid = false) : specs r = none := by
  simp [specs, h]

end Sys2Proof.Machine
end

