-- ==== Sys2Proof/Tests/Slice0.lean ====
section
/-! SUPPORT. Tests: the well-formedness checks, decoded words, one step per command with values from the spec's
95_test_vectors.md, and for each statement a witness that its hypotheses can be met. -/

namespace Sys2Proof.Tests

open Sys2Proof Sys2Proof.Machine

/-! ### Well-formedness: an ill-formed term for each check, and its boundary -/

theorem test_symFits_refuses_16 : (Instr.lutDigit 16).WellFormed = false := by decide
theorem test_symFits_digexp_refuses_16 : (Instr.lutDigexp 16).WellFormed = false := by decide
theorem test_symFits_tol_refuses_16 : (Instr.lutTol 16).WellFormed = false := by decide
theorem test_symFits_tcr_refuses_16 : (Instr.lutTcr 16).WellFormed = false := by decide
theorem test_withColor_color_refused : (Instr.withColor 16 0).WellFormed = false := by decide
theorem test_withColor_pos_refused : (Instr.withColor 0 8).WellFormed = false := by decide
theorem test_matrix_sym_refused : (Instr.lutMatrix 16 0 0).WellFormed = false := by decide
theorem test_matrix_pos_refused : (Instr.lutMatrix 0 8 0).WellFormed = false := by decide
theorem test_matrix_cnt_refused : (Instr.lutMatrix 0 0 8).WellFormed = false := by decide
theorem test_wellFormed_boundary :
    (Instr.withColor 15 7).WellFormed = true ∧ (Instr.lutMatrix 15 7 7).WellFormed = true ∧
      (Instr.lutTol 15).WellFormed = true := by decide

/-! ### Decoding: one word per constructor, written from R81 to R90 and the tables of 95_test_vectors.md -/

theorem test_decode_nop : decode 0x00000000#32 = .ok .nop := by rfl
theorem test_decode_construct : decode 0x00000001#32 = .ok .construct := by rfl
theorem test_decode_determine : decode 0x00000002#32 = .ok .determine := by rfl
/-- 95 §2.7: `withcolor Red, 5`. -/
theorem test_decode_withColor : decode 0x00005203#32 = .ok (.withColor 2 5) := by rfl
theorem test_decode_normalize : decode 0x00000004#32 = .ok .normalize := by rfl
theorem test_decode_lutDigit : decode 0x00000910#32 = .ok (.lutDigit 9) := by rfl
theorem test_decode_lutDigexp : decode 0x00000C11#32 = .ok (.lutDigexp 12) := by rfl
theorem test_decode_lutTol : decode 0x00000A12#32 = .ok (.lutTol 10) := by rfl
theorem test_decode_lutTcr : decode 0x00000F13#32 = .ok (.lutTcr 15) := by rfl
theorem test_decode_lutTolinv : decode 0x00000014#32 = .ok .lutTolinv := by rfl
theorem test_decode_lutTcrinv : decode 0x00000015#32 = .ok .lutTcrinv := by rfl
/-- 95 §2.2: `lut.matrix Brown, 7, 6`. -/
theorem test_decode_lutMatrix : decode 0x00067116#32 = .ok (.lutMatrix 1 7 6) := by rfl
/-- 95 §2.8: unlisted opcodes, at the ends of the two reserved ranges (R88). -/
theorem test_decode_unlisted :
    decode 0x00000005#32 = .error (.unlistedOpcode 0x05) ∧ decode 0x0000000F#32 = .error (.unlistedOpcode 0x0F) ∧
    decode 0x00000017#32 = .error (.unlistedOpcode 0x17) ∧ decode 0x000000FF#32 = .error (.unlistedOpcode 0xFF) :=
  ⟨rfl, rfl, rfl, rfl⟩
/-- 95 §2.8: a must-be-zero bit set, one word per format (R87 (b)). -/
theorem test_decode_mustBeZero :
    decode 0x00010001#32 = .error (.mustBeZero 0x01) ∧ decode 0x00001010#32 = .error (.mustBeZero 0x10) ∧
    decode 0x00008003#32 = .error (.mustBeZero 0x03) ∧ decode 0x00080016#32 = .error (.mustBeZero 0x16) ∧
    decode 0x00008016#32 = .error (.mustBeZero 0x16) := ⟨rfl, rfl, rfl, rfl, rfl⟩

/-! ### Small states -/

/-- An idle machine with these operands and this resistor. -/
def idle (o : Operands) (r : Resistor) : State := { State.reset with operands := o, resistor := r }

/-- The machine after reset with one operand register set. -/
def withRes (M : Nat) (E : Int) : Operands :=
  { Operands.reset with
    resMLo := BitVec.ofNat 32 M, resMHi := BitVec.ofNat 32 (M / 2 ^ 32), resE := BitVec.ofInt 16 E }

/-- Resistance, tolerance in percent and TCR as operands. -/
def withAll (M : Nat) (E : Int) (tolM : Nat) (opt : BitVec 10) (tcrv : Nat) : Operands :=
  { withRes M E with tolM := BitVec.ofNat 32 tolM, optCtl := opt, tcrV := BitVec.ofNat 32 tcrv }

/-- R of scenario 6: Green, Yellow, Black, Gold, Silver, Violet. -/
def sixBands : Resistor := resistorOf 6 [5, 4, 0, 10, 11, 7]

/-- The state a meaning answers, seen through `f`. -/
def seen {α : Type} (f : State → α) (o : Host.Outcome State Fault Refusal) : Option α :=
  match o with
  | .next t => some (f t)
  | .fault _ => none
  | .refused _ => none

/-- Two words of the port. -/
def words (a b : Addr) (t : State) : Word × Word := (busRead a t, busRead b t)

/-- A host with this program. -/
def hostOf (p : List HostStep) : HostAgent := { program := p, rdata := none, recorded := [] }

/-- The command `w` pending, `n` cycles before its commit, and a host with this program. -/
def busy (w : Word) (n : Nat) (p : List HostStep) : State :=
  { (idle Operands.reset sixBands).place w n with host := hostOf p }

/-! ### One command each (values from 95_test_vectors.md): STATUS and the register the command writes -/

/-- 95 §2.8, R230. -/
theorem test_nop : seen (words 2 16) (exec .nop (idle Operands.reset sixBands)) = some (0x2#32, 0x867BA045#32) := by
  decide
/-- 95 §2.3: R = [Brown, Black, Red]. -/
theorem test_construct_ok :
    seen (words 2 16) (exec .construct (idle { Operands.reset with seqIn := 0x3000201 } Resistor.empty))
      = some (0x2#32, 0x83000201#32) := by decide
/-- 95 §2.3: White has no TCR; R stays. -/
theorem test_construct_color :
    seen (words 2 16) (exec .construct (idle { Operands.reset with seqIn := 0x69BA045 } sixBands))
      = some (0x00050010#32, 0x867BA045#32) := by decide
/-- 95 §1, scenario 4. -/
theorem test_determine_ok :
    seen (words 2 16) (exec .determine (idle (withAll 123 (-3) 5 0x3FF 50) Resistor.empty))
      = some (0x2#32, 0x8625C321#32) := by decide
/-- 95 §2.6: three errors at once. -/
theorem test_determine_composite :
    seen (words 2 16) (exec .determine (idle (withAll 1003 (-5) 3 0x300 7) Resistor.empty))
      = some (0xE0#32, 0#32) := by decide
/-- 95 §2.7. -/
theorem test_withColor_ok :
    seen (words 2 16) (exec (.withColor 2 5) (idle Operands.reset sixBands)) = some (0x2#32, 0x862BA045#32) := by
  decide
/-- 95 §2.7. -/
theorem test_withColor_bounds :
    seen (words 2 16) (exec (.withColor 0 6) (idle Operands.reset sixBands)) = some (0x400#32, 0x867BA045#32) := by
  decide
/-- 95 §2.5. -/
theorem test_normalize_ok :
    seen (words 2 21) (exec .normalize (idle (withRes 105 (-2)) Resistor.empty)) = some (0x2#32, 0x80FE3501#32) := by
  decide
/-- 95 §2.5. -/
theorem test_normalize_err :
    seen (words 2 21) (exec .normalize (idle (withRes 1 (-3)) Resistor.empty)) = some (0x80#32, 0#32) := by decide
/-- 95 §2.1. -/
theorem test_lutDigit :
    seen (words 2 22) (exec (.lutDigit 9) State.reset) = some (0x2#32, 0x80000009#32) ∧
      seen (words 2 22) (exec (.lutDigit 10) State.reset) = some (0x1000#32, 0#32) := by decide
/-- 95 §2.1. -/
theorem test_lutDigexp :
    seen (words 2 22) (exec (.lutDigexp 12) State.reset) = some (0x2#32, 0x8000FFFD#32) ∧
      seen (words 2 22) (exec (.lutDigexp 13) State.reset) = some (0x1000#32, 0#32) := by decide
/-- 95 §2.1. -/
theorem test_lutTol :
    seen (words 2 22) (exec (.lutTol 11) State.reset) = some (0x2#32, 0x800003E8#32) ∧
      seen (words 2 22) (exec (.lutTol 9) State.reset) = some (0x1000#32, 0#32) := by decide
/-- 95 §2.1. -/
theorem test_lutTcr :
    seen (words 2 22) (exec (.lutTcr 0) State.reset) = some (0x2#32, 0x800000FA#32) ∧
      seen (words 2 22) (exec (.lutTcr 9) State.reset) = some (0x1000#32, 0#32) := by decide
/-- 95 §2.2: 0.500 percent spelled (500, −3), TOL_P 0. -/
theorem test_lutTolinv_ok :
    seen (words 2 22) (exec .lutTolinv (idle (withAll 0 0 500 0x0FD 0) Resistor.empty))
      = some (0x2#32, 0x80000005#32) := by decide
/-- 95 §2.2: 20 percent has no band. -/
theorem test_lutTolinv_undef :
    seen (words 2 22) (exec .lutTolinv (idle (withAll 0 0 20 0 0) Resistor.empty)) = some (0x1000#32, 0#32) := by
  decide
/-- 95 §2.2. -/
theorem test_lutTcrinv :
    seen (words 2 22) (exec .lutTcrinv (idle (withAll 0 0 0 0 250) Resistor.empty)) = some (0x2#32, 0x80000000#32) ∧
      seen (words 2 22) (exec .lutTcrinv (idle (withAll 0 0 0 0 2) Resistor.empty)) = some (0x1000#32, 0#32) := by
  decide
/-- 95 §2.2. -/
theorem test_lutMatrix :
    seen (words 2 22) (exec (.lutMatrix 12 3 5) State.reset) = some (0x2#32, 0x80000001#32) ∧
      seen (words 2 22) (exec (.lutMatrix 1 0 2) State.reset) = some (0x2#32, 0x80000000#32) := by decide
/-- 95 §2.8. -/
theorem test_illegal_word : seen (words 2 16) (execWord 0x00008003#32 (idle Operands.reset sixBands))
    = some (0x4#32, 0x867BA045#32) := by decide

/-! ### Views, port and step -/

/-- 95 §2.4: the views of scenario 6's resistor. -/
theorem test_views :
    words 17 18 (idle Operands.reset sixBands) = (0x80FF021C#32, 0x810503E8#32) ∧
      words 19 20 (idle Operands.reset sixBands) = (0xFB4A2860#32, 0xFB5AA320#32) := by decide
/-- 95 §2.9. -/
theorem test_reserved_bits :
    busRead 3 (busWrite 3 0xFFFFFFFF#32 State.reset) = 0x07FFFFFF#32 ∧
      busRead 8 (busWrite 8 0xFFFFFFFF#32 State.reset) = 0x3FF#32 := by decide
/-- 95 §2.9: a dropped write while BUSY. -/
theorem test_dropped_write : seen (words 2 3) (step (busy 0 2 [.cycle (BusCycle.write 3 7)])) = some (0x2001#32, 0#32) := by
  decide
/-- The next step runs the placed word (95 §2.7). -/
theorem test_withFetchWord :
    seen (words 2 16) (step ((idle Operands.reset sixBands).withFetchWord 32 0x5203)) = some (0x2#32, 0x862BA045#32) := by
  decide
/-- 95 §3's language: `seq brown, black, red` is a write of 0x0300_0201 to SEQ_IN. -/
theorem test_assemble_seq :
    assembleText "seq brown, black, red ; a comment" = some [.cycle (BusCycle.write 3 0x03000201#32)] := by decide

/-! ### Witnesses: the hypotheses of each statement met together, each clause at a boundary value -/

theorem sixBands_legal : sixBands.Legal := resistorOf_legal (by decide) (by decide)

/-- An idle state, R the six bands, OK 1: the invariant's idle witness. -/
def sample : State := { idle Operands.reset sixBands with status := { Status.reset with ok := true } }

theorem sample_noFlags : sample.status.NoFlags := by intro c _; cases c <;> rfl

/-- StepKeepsInvariant, IdleEngineKeepsItsState, OldValuesWhileBusy: an idle state with the invariant. -/
theorem witness_sample_inv : sample.Inv :=
  { resistor := sixBands_legal
    busy := rfl
    issued := fun h => absurd h (by decide)
    errPos := fun _ => rfl
    ok := fun _ => sample_noFlags
    pend := fun p h => absurd h (by simp [sample, idle, State.reset])
    normOut := .inl rfl
    qOut := .inl rfl }

/-- A pending command keeps the invariant, whatever the host's program. -/
theorem witness_busy_inv (w : Word) (n : Nat) (p : List HostStep) (hn : 1 ≤ n) : (busy w n p).Inv :=
  { resistor := sixBands_legal
    busy := rfl
    issued := fun _ => ⟨rfl, rfl, fun c _ => by cases c <;> rfl⟩
    errPos := fun _ => rfl
    ok := fun h => absurd h (by simp [busy])
    pend := fun q h => by cases h; exact ⟨rfl, hn⟩
    normOut := .inl rfl
    qOut := .inl rfl }

/-- IdleEngineKeepsItsState, StepKeepsInvariant: the idle step answers a next state. -/
theorem witness_idle_step : sample.Inv ∧ sample.status.busy = false ∧ sample.host.signals.rst = false ∧
    sample.host.signals.wr = false ∧ (∃ t, step sample = .next t) := ⟨witness_sample_inv, rfl, rfl, rfl, _, rfl⟩

/-- CmdWriteIssues: an idle state whose host writes CMD. -/
theorem witness_issue :
    let s := { sample with host := hostOf [.cycle (BusCycle.write 1 4)] }
    s.Inv ∧ s.status.busy = false ∧ s.host.signals = { rst := false, wr := true, rd := false, addr := 1, wdata := 4 } :=
  ⟨⟨witness_sample_inv.1, rfl, fun h => absurd h (by decide), fun _ => rfl, fun _ => sample_noFlags,
    fun p h => absurd h (by simp [sample, idle, State.reset]), .inl rfl, .inl rfl⟩, rfl, rfl⟩

/-- PendingCommandCommitsOnTime: two cycles to go, and a host that writes and never resets. -/
theorem witness_pending :
    let s := busy 4 2 [.cycle (BusCycle.write 3 7)]
    s.Inv ∧ s.pend = some { word := 4, snap := Operands.reset, remaining := 2 } ∧ s.host.NeverResets :=
  ⟨witness_busy_inv _ _ _ (by decide), rfl, fun c h => by
    have h' : HostStep.cycle c = HostStep.cycle (BusCycle.write 3 7) := by simpa [busy, hostOf] using h
    cases h'; rfl⟩

/-- StepRunsDecodedCommand and StepOfIllegalWord: a command and an illegal word in their last cycle. -/
theorem witness_commit :
    (busy 4 1 []).pend = some { word := 4, snap := Operands.reset, remaining := 1 } ∧ decode 4#32 = .ok .normalize ∧
    (busy 5 1 []).pend = some { word := 5, snap := Operands.reset, remaining := 1 } ∧
    decode 5#32 = .error (.unlistedOpcode 5) ∧ (busy 5 1 []).host.signals.rst = false ∧
    (busy 5 1 []).host.signals.wr = false := ⟨rfl, rfl, rfl, rfl, rfl, rfl⟩

/-- WriteInCommitCycleIsDropped, BusWriteMap: at the ends of the two ranges of droppable words. -/
theorem witness_drop_in_commit :
    (busy 4 1 [.cycle (BusCycle.write 1 0)]).Inv ∧ (busy 4 1 [.cycle (BusCycle.write 9 0)]).Inv ∧
    (busy 4 1 [.cycle (BusCycle.write 9 0)]).host.signals = BusCycle.write 9 0 ∧
    DroppableWord 1 ∧ DroppableWord 3 ∧ DroppableWord 9 ∧ ¬ DroppableWord 0 ∧ ¬ DroppableWord 2 ∧ ¬ DroppableWord 10 :=
  ⟨witness_busy_inv _ _ _ (by decide), witness_busy_inv _ _ _ (by decide), rfl, by unfold DroppableWord; decide⟩

/-- OldValuesWhileBusy: a countdown cycle. -/
theorem witness_countdown :
    (busy 4 2 []).Inv ∧ (busy 4 2 []).status.busy = true ∧ (busy 4 2 []).host.signals.rst = false ∧
      ∃ t, step (busy 4 2 []) = .next t := ⟨witness_busy_inv _ _ _ (by decide), rfl, rfl, _, rfl⟩

/-- ResetWins: a host that resets and accesses the port in one cycle, with a command pending. -/
theorem witness_reset :
    (busy 4 1 [.cycle { rst := true, wr := true, rd := true, addr := 3, wdata := 7 }]).host.signals.rst = true := rfl

/-- ReadBeforeWriteInOneCycle and ReadsHaveNoSideEffect: the hosts. -/
theorem witness_signals :
    (hostOf [.cycle { rst := false, wr := true, rd := true, addr := 2, wdata := 0x2000 }]).signals
      = { rst := false, wr := true, rd := true, addr := 2, wdata := 0x2000 } ∧
    (hostOf [.cycle { rst := false, wr := true, rd := false, addr := 2, wdata := 0x2000 }]).signals
      = { rst := false, wr := true, rd := false, addr := 2, wdata := 0x2000 } ∧
    (hostOf [.cycle (BusCycle.read 22)]).signals = { rst := false, wr := false, rd := true, addr := 22, wdata := 0 } :=
  ⟨rfl, rfl, rfl⟩

/-- WaitPollsUntilIdle: both clauses. -/
theorem witness_wait :
    (busy 4 2 [.wait, .wait]).host.program = .wait :: [.wait] ∧ (busy 4 2 [.wait]).status.busy = true ∧
    ({ sample with host := hostOf [.wait] } : State).host.program = .wait :: [] ∧ sample.status.busy = false :=
  ⟨rfl, rfl, rfl, rfl⟩

/-- BusywrIsSticky: a dropped write sets it; a write to STATUS and a reset clear it. -/
theorem witness_busywr :
    seen (fun t => t.status.eBusywr) (step (busy 0 2 [.cycle (BusCycle.write 9 7)])) = some true ∧
    seen (fun t => t.status.eBusywr) (step { sample with
      status := { sample.status with eBusywr := true }, host := hostOf [.cycle (BusCycle.write 2 0x2000)] }) = some false ∧
    seen (fun t => t.status.eBusywr) (step { sample with
      status := { sample.status with eBusywr := true }
      host := hostOf [.cycle { rst := true, wr := false, rd := false, addr := 0, wdata := 0 }] }) = some false := by decide

/-- OnlySuccessfulCommandsWriteR, ResultRegistersHaveOneWriter: steps that change R, NORM_OUT and Q_OUT. -/
theorem witness_writers :
    seen (fun t => decide (t.resistor = sixBands)) (step (busy 0x5203 1 [])) = some false ∧
    seen (fun t => decide (t.normOut = 0)) (step (busy 4 1 [])) = some false ∧
    seen (fun t => decide (t.qOut = 0)) (step (busy 0x10 1 [])) = some false := by decide

/-- FailingCommandsHaveNoPartialEffect: a failing NORMALIZE, lookup, WITH_COLOR and illegal word. -/
theorem witness_failing :
    seen (fun t => t.status.ok) (execWord 4#32 (idle (withRes 1234 0) sixBands)) = some false ∧
    seen (fun t => t.status.ok) (execWord 0xD10#32 sample) = some false ∧
    seen (fun t => t.status.ok) (execWord 0x7003#32 sample) = some false ∧
    seen (fun t => t.status.ok) (execWord 5#32 sample) = some false := by decide

/-- CommandFlagMatrix, OnlyDetermineIsComposite, EveryCommitReports: no flag before, flags after. -/
theorem witness_flags :
    sample.resistor.Legal ∧ sample.status.NoFlags ∧
    seen (fun t => t.status.flag .eBounds) (exec (.withColor 0 6) sample) = some true ∧
    seen (fun t => t.status.flag .eCmd) (execWord 5#32 sample) = some true ∧
    seen (fun t => t.status.flag .eTol && t.status.flag .eTcr)
      (exec .determine { sample with operands := withAll 1003 (-5) 3 0x300 7 }) = some true :=
  ⟨sixBands_legal, sample_noFlags, by decide⟩

/-- EncodeOfDecode, CommandStatementWritesCmd: a word with every field at its largest. -/
theorem witness_encoding : decode 0x00077F16#32 = .ok (.lutMatrix 15 7 7) ∧ encode (.lutMatrix 15 7 7) = 0x00077F16#32 :=
  ⟨rfl, by decide⟩

/-- SetresDeliversDecimal, SeqDeliversSequence: the largest operands, and one beyond. -/
theorem witness_assemble :
    ((Stmt.setres (2 ^ 64 - 1) (-32768)).assemble).isSome = true ∧ ((Stmt.setres 0 32767).assemble).isSome = true ∧
    (Stmt.setres (2 ^ 64) 0).assemble = none ∧ (Stmt.setres 0 32768).assemble = none ∧
    (Stmt.setres 0 (-32769)).assemble = none ∧ ((Stmt.seq [15, 15, 15, 15, 15, 15]).assemble).isSome = true ∧
    State.reset.status.busy = false := by decide

/-- LutTolinvResult: the least and the greatest tolerance, and zero percent. -/
theorem witness_tolinv :
    decimalValue 1 (-2) * 100 = ((1 : ℕ) : ℚ) ∧ decimalValue 1 1 * 100 = ((1000 : ℕ) : ℚ) ∧
      ∀ bp : ℕ, bp ∈ [1, 2, 5, 10, 25, 50, 100, 200, 500, 1000] → decimalValue 0 0 * 100 ≠ (bp : ℚ) := by
  refine ⟨by norm_num [decimalValue], by norm_num [decimalValue], ?_⟩
  simp [decimalValue]

/-- LutMatrixResult: triples on both sides, at the edges of a cell and of the position range. -/
theorem witness_matrix :
    Admitted 1 0 3 ∧ Admitted 12 3 6 ∧ ¬ Admitted 0 0 3 ∧ ¬ Admitted 13 2 3 ∧ ¬ Admitted 0 6 6 ∧ ¬ Admitted 1 0 2 := by
  refine ⟨⟨.firstDigit, rfl, by simp [SlotRole.admits]⟩, ⟨.exponent, rfl, by simp [SlotRole.admits]⟩, ?_, ?_, ?_, ?_⟩ <;>
    simp [Admitted, slotRoles, SlotRole.admits]

/-- MatrixAgreesWithRoles: a slot of each role. -/
theorem witness_roles :
    (slotRoles 1)[0]? = some .zeroOhm ∧ (slotRoles 6)[0]? = some .firstDigit ∧ (slotRoles 6)[2]? = some .digit ∧
    (slotRoles 6)[3]? = some .exponent ∧ (slotRoles 6)[4]? = some .tolerance ∧ (slotRoles 6)[5]? = some .tcr ∧
    legal 9 0 6 = true := by decide

/-- ConstructResult: the lengths and the first failure at both ends. -/
theorem witness_construct :
    (∀ i, i < 1 → legal ((0x1000000#27).extractLsb' (4 * i) 4).toNat i 1 = true) ∧
    legal ((0x3000210#27).extractLsb' 0 4).toNat 0 3 = false ∧
    legal ((0x69BA045#27).extractLsb' 20 4).toNat 5 6 = false ∧
    (∀ j, j < 5 → legal ((0x69BA045#27).extractLsb' (4 * j) 4).toNat j 6 = true) ∧
    ((0x7000001#27).extractLsb 26 24).toNat = 7 := by decide

/-- WithColorResult, WithOwnColorChangesNothing: each clause at a boundary position. -/
theorem witness_withColor :
    Resistor.empty.Legal ∧ Resistor.empty.valid = false ∧ sixBands.Legal ∧ sixBands.valid = true ∧
    sixBands.count.toNat = 6 ∧ legal 9 5 6 = false ∧ legal 2 5 6 = true ∧ sixBands.band 5 = 7 :=
  ⟨.inl rfl, rfl, sixBands_legal, by decide⟩

/-- NormalizeResult, NormalFormIsExact: a result at each end of the exponents, zero, and a failure. -/
theorem witness_normalize :
    normalize 1 (-2) = some ([1, 0], -3) ∧ normalize 999 9 = some ([9, 9, 9], 9) ∧ normalize 0 5 = some ([0], 0) ∧
      normalize 1 (-3) = none := by decide

/-- NormalFormIgnoresSpelling: two spellings of one number. -/
theorem witness_spelling : decimalValue 47 2 = decimalValue 4700 0 := by norm_num [decimalValue]

/-- DetermineReportsEveryFailure: one state in which all three fail. -/
theorem witness_determine_failures :
    let o := withAll 1003 (-5) 3 0x300 7
    (o.tolPresent && (tolSym o.tolCoeff o.tolExp).isNone) = true ∧
      (o.tcrPresent && (symOfTcr o.tcrValue).isNone) = true ∧ (normalize o.resCoeff o.resExp).isNone = true := by decide

/-- DetermineFollowsSelectionTable: digits of each length, and an operand of each kind. -/
theorem witness_selection :
    normalize 0 0 = some ([0], 0) ∧ normalize 12 (-3) = some ([1, 2], -3) ∧ normalize 54 0 = some ([5, 4], 0) ∧
    normalize 105 (-2) = some ([1, 0, 5], -2) ∧
    (withAll 54 0 10 0x300 5).TolIs (some 11) ∧ (withAll 54 0 10 0x300 5).TcrIs (some 7) ∧
    (withAll 54 0 10 0 5).TolIs none ∧ (withAll 54 0 10 0 5).TcrIs none ∧
    (withAll 12 (-3) 1 0x300 100).TolIs (some 1) ∧ (withAll 12 (-3) 1 0x300 100).TcrIs (some 1) ∧
    (withAll 47 0 5 0x200 100).TolIs none ∧ (withAll 47 0 5 0x200 100).TcrIs (some 1) := by
  refine ⟨by decide, by decide, by decide, by decide, .inr ⟨rfl, rfl, by decide⟩, .inr ⟨rfl, rfl, by decide⟩,
    .inl ⟨rfl, rfl⟩, .inl ⟨rfl, rfl⟩, .inr ⟨rfl, rfl, by decide⟩, .inr ⟨rfl, rfl, by decide⟩, .inl ⟨rfl, rfl⟩,
    .inr ⟨rfl, rfl, by decide⟩⟩

/-- DetermineRoundTrip: a DETERMINE that succeeds. -/
theorem witness_roundTrip : seen (fun t => t.status.ok) (exec .determine (idle (withAll 54 0 10 0x300 5) sixBands))
    = some true := by decide

/-- AbsentOperandsAreNotRead: two operand sets that differ in what is not read. -/
theorem witness_absent : (withAll 54 0 10 0 5).SameForDetermine (withAll 54 0 20 0 6) ∧
    withAll 54 0 10 0 5 ≠ withAll 54 0 20 0 6 := by
  refine ⟨⟨rfl, rfl, rfl, rfl, ?_, ?_⟩, by decide⟩
  · intro h; exact absurd h (by decide)
  · intro h; exact absurd h (by decide)

/-- SpecViewsDecodeR, DecodedValuesFit, ToleranceContainment: a legal resistor of every band count. -/
theorem witness_resistors :
    (resistorOf 1 [0]).Legal ∧ (resistorOf 3 [9, 9, 9]).Legal ∧ (resistorOf 4 [1, 0, 12, 8]).Legal ∧
    (resistorOf 5 [9, 9, 9, 9, 11]).Legal ∧ (resistorOf 6 [1, 0, 0, 12, 8, 0]).Legal ∧
    (resistorOf 6 [1, 0, 0, 12, 8, 0]).valid = true :=
  ⟨resistorOf_legal (by decide) (by decide), resistorOf_legal (by decide) (by decide),
    resistorOf_legal (by decide) (by decide), resistorOf_legal (by decide) (by decide),
    resistorOf_legal (by decide) (by decide), rfl⟩

/-- OperandWriteThenRead, FixedAndReservedWords: the ends of the ranges of addresses. -/
theorem witness_addresses :
    (3 ≤ (3 : Addr).toNat ∧ (3 : Addr).toNat ≤ 9) ∧ (3 ≤ (9 : Addr).toNat ∧ (9 : Addr).toNat ≤ 9) ∧
    (10 ≤ (10 : Addr).toNat ∧ (15 : Addr).toNat ≤ 15) ∧ 23 ≤ (23 : Addr).toNat ∧ 23 ≤ (31 : Addr).toNat := by decide

end Sys2Proof.Tests
end

section
/-! SUPPORT and proofs. NORM_OUT and Q_OUT by their fields, the bounds of a normal form, what a command's outcome can
be, and the invariant, operation by operation. -/

namespace Sys2Proof.Machine

/-! ### NORM_OUT and Q_OUT by their fields (R43, R44) -/

/-- The fields of NORM_OUT stand at their places, and the reserved bits are 0 (R43). -/
theorem normWord_fields (ds : List Nat) (x : Int) :
    (normWord ds x).extractLsb 30 24 = 0 ∧ (normWord ds x).extractLsb 23 16 = enc 8 x ∧
      (normWord ds x).extractLsb 15 14 = 0 ∧ (normWord ds x).extractLsb 13 12 = BitVec.ofNat 2 ds.length ∧
      (normWord ds x).extractLsb 11 8 = normDigit ds 2 ∧ (normWord ds x).extractLsb 7 4 = normDigit ds 1 ∧
      (normWord ds x).extractLsb 3 0 = normDigit ds 0 := by
  refine ⟨?_, ?_, ?_, ?_, ?_, ?_, ?_⟩ <;>
    simp (disch := decide) only [normWord, BitVec.extractLsb, BitVec.extractLsb'_append_eq_of_le,
      BitVec.extractLsb'_append_eq_of_add_le] <;>
    exact BitVec.extractLsb'_eq_self

/-- N_VALID is 1 in every normal form (R43). -/
theorem normWord_valid (ds : List Nat) (x : Int) : (normWord ds x).getLsbD 31 = true := by
  simp only [normWord, BitVec.getLsbD_append]
  rfl

/-- A found lookup value has Q_VALID 1 and the reserved bits 0 (R44). -/
theorem qFound_form (v : BitVec 16) : QOutForm (qFound v) := by
  refine .inr ⟨?_, ?_⟩
  · simp only [qFound, BitVec.getLsbD_append]
    rfl
  · simp (disch := decide) only [qFound, BitVec.extractLsb, BitVec.extractLsb'_append_eq_of_le,
      BitVec.extractLsb'_append_eq_of_add_le]
    rfl

/-! ### The bounds of a normal form (R183) -/

theorem one_le_ndigits (m : Nat) : 1 ≤ ndigits m := by
  rcases Nat.eq_zero_or_pos m with rfl | h
  · exact le_rfl
  · exact (ndigits_spec h).1

theorem ndigits_le_three {m : Nat} (h : m < 1000) : ndigits m ≤ 3 := by
  rcases Nat.eq_zero_or_pos m with rfl | h0
  · decide
  · exact (ndigits_le_iff h0 3).mpr h

theorem digitsOf_length (m : Nat) : (digitsOf m).length = ndigits m := by simp [digitsOf]

theorem digitsOf_le_nine {m d : Nat} (h : d ∈ digitsOf m) : d ≤ 9 := by
  obtain ⟨i, -, rfl⟩ := List.mem_map.mp h
  exact Nat.lt_succ_iff.mp (Nat.mod_lt _ (by decide))

/-- The compaction stops below 1000 when its fuel covers the number. -/
theorem compact_lt (small : Bool) : ∀ (fuel s : Nat) (x : Int), s ≤ fuel → (compact small fuel s x).1 < 1000 := by
  intro fuel
  induction fuel with
  | zero => intro s x h; simp [compact]; omega
  | succ fuel ih =>
    intro s x h
    simp only [compact]
    split
    case isTrue hc =>
      rw [mustCompact_iff] at hc
      exact ih _ _ (by omega)
    case isFalse hc =>
      rw [mustCompact_iff] at hc
      show s < 1000
      omega

/-- A normal form has 1 to 3 decimal digits and an exponent in [−3, 9] (R43, R183). -/
theorem normalize_bounds {M : Nat} {E : Int} {ds : List Nat} {x : Int} (h : normalize M E = some (ds, x)) :
    1 ≤ ds.length ∧ ds.length ≤ 3 ∧ (∀ d ∈ ds, d ≤ 9) ∧ -3 ≤ x ∧ x ≤ 9 := by
  unfold normalize at h
  cases hc : canon M E with
  | none =>
    rw [hc] at h
    cases h
    simp
  | some me =>
    simp only [hc] at h
    split at h
    · cases h
    · split at h
      case isTrue hx =>
        cases h
        rw [digitsOf_length]
        exact ⟨one_le_ndigits _, ndigits_le_three (compact_lt _ _ _ _ le_rfl), fun d => digitsOf_le_nine,
          (inExpRange_iff _).mp hx⟩
      case isFalse => cases h

/-- Every digit field of a normal form holds its digit, 0 beyond the last (R43). -/
theorem normDigit_toNat {ds : List Nat} (h : ∀ d ∈ ds, d ≤ 9) (i : Nat) :
    (normDigit ds i).toNat = ds.getD i 0 ∧ ds.getD i 0 ≤ 9 := by
  have hd : ds.getD i 0 ≤ 9 := by
    by_cases hi : i < ds.length
    · rw [List.getD_eq_getElem _ _ hi]
      exact h _ (List.getElem_mem hi)
    · rw [List.getD_eq_default _ _ (Nat.le_of_not_lt hi)]
      exact Nat.zero_le 9
  refine ⟨?_, hd⟩
  rw [normDigit, BitVec.toNat_ofNat]
  exact Nat.mod_eq_of_lt (by omega)

/-- The exponent field of a normal form is its exponent (R43). -/
theorem enc_toInt {x : Int} (h1 : -128 ≤ x) (h2 : x < 128) : (enc 8 x).toInt = x :=
  BitVec.toInt_ofInt_eq_self (by decide) (by simpa using h1) (by simpa using h2)

/-- What NORMALIZE writes has the form of R43. -/
theorem normWord_form {M : Nat} {E : Int} {ds : List Nat} {x : Int} (h : normalize M E = some (ds, x)) :
    NormOutForm (normWord ds x) := by
  obtain ⟨hl1, hl3, hd, hx1, hx2⟩ := normalize_bounds h
  obtain ⟨f30, f23, f15, f13, f11, f7, f3⟩ := normWord_fields ds x
  have hn : (BitVec.ofNat 2 ds.length).toNat = ds.length := by
    rw [BitVec.toNat_ofNat]
    exact Nat.mod_eq_of_lt (by omega)
  have hzero : ∀ i, ds.length < i + 1 → (normDigit ds i).toNat = 0 := fun i hi => by
    rw [(normDigit_toNat hd i).1, List.getD_eq_default _ _ (by omega)]
  have hle : ∀ i, (normDigit ds i).toNat ≤ 9 := fun i => by
    rw [(normDigit_toNat hd i).1]
    exact (normDigit_toNat hd i).2
  have he := enc_toInt (x := x) (by omega) (by omega)
  refine .inr ⟨normWord_valid ds x, f30, f15, ?_⟩
  rw [f13, f23, f3, f7, f11, hn, he]
  exact ⟨hl1, hl3, hx1, hx2, hle 0, hle 1, hle 2, hzero 1, hzero 2⟩

/-! ### What a command's outcome can be (R50 `execute`) -/

/-- The five shapes of an outcome: NOP's, the validating constructor's, an error of CONSTRUCT, DETERMINE or WITH_COLOR
that writes no register, NORMALIZE's, and a lookup's. -/
theorem outcomeOf_forms (i : Instr) (s : State) :
    (outcomeOf i s = .ok {}) ∨
    (commandWritesR i = true ∧ ∃ L seq, outcomeOf i s = constructOutcome L seq) ∨
    (commandWritesR i = true ∧ ∃ cs, outcomeOf i s = .err cs 0 {}) ∨
    (i = .normalize ∧ outcomeOf i s = normalizeOutcome s.snap) ∨
    (isLookupCommand i = true ∧ ∃ v, outcomeOf i s = lookupOutcome v) := by
  cases i
  case nop => exact .inl rfl
  case construct => exact .inr (.inl ⟨rfl, _, _, rfl⟩)
  case determine =>
    refine .inr ?_
    rcases determineOutcome_cases s.snap with ⟨-, h⟩ | ⟨ds, x, -, -, -, h⟩
    · exact .inr (.inl ⟨rfl, _, h⟩)
    · simp only [outcomeOf, h, resolveLayout]
      cases select ds x (checkTol s.snap).sym (checkTcr s.snap).sym with
      | ok seq => exact .inl ⟨rfl, _, _, rfl⟩
      | error cause => exact .inr (.inl ⟨rfl, _, rfl⟩)
  case withColor color pos =>
    refine .inr ?_
    rcases withColorOutcome_cases s.resistor color pos with ⟨-, h⟩ | ⟨-, -, h⟩ | ⟨-, -, h⟩
    · exact .inr (.inl ⟨rfl, _, h⟩)
    · exact .inr (.inl ⟨rfl, _, h⟩)
    · exact .inl ⟨rfl, _, _, h⟩
  case normalize => exact .inr (.inr (.inr (.inl ⟨rfl, rfl⟩)))
  case lutMatrix sym pos cnt =>
    exact .inr (.inr (.inr (.inr ⟨rfl, some (if legal sym pos cnt then 1 else 0), rfl⟩)))
  all_goals exact .inr (.inr (.inr (.inr ⟨rfl, _, rfl⟩)))

/-- The register effects of an outcome, on success and on failure (R50). -/
def CmdOutcome.effects (o : CmdOutcome) : Effects :=
  match o with
  | .ok e => e
  | .err _ _ e => e

@[simp] theorem State.commit_normOut (o : CmdOutcome) (s : State) :
    (s.commit o).normOut = o.effects.normOut.getD s.normOut := by cases o <;> rfl
@[simp] theorem State.commit_qOut (o : CmdOutcome) (s : State) :
    (s.commit o).qOut = o.effects.qOut.getD s.qOut := by cases o <;> rfl
@[simp] theorem State.commit_ok (e : Effects) (s : State) : s.commit (.ok e) = s.succeed e := rfl
@[simp] theorem State.commit_err (cs : List Cause) (pos : Nat) (e : Effects) (s : State) :
    s.commit (.err cs pos e) = s.raise cs pos e := rfl

/-- An outcome whose effects the state can take: a legal R on success, an error position only with E_COLOR, and
result registers of their forms (R26, R40, R43, R44). -/
structure CmdOutcome.Fits (o : CmdOutcome) : Prop where
  resistor : ∀ e r, o = .ok e → e.resistor = some r → r.Legal
  errPos : ∀ cs pos e, o = .err cs pos e → Cause.eColor ∉ cs → pos = 0
  normOut : ∀ w, o.effects.normOut = some w → NormOutForm w
  qOut : ∀ w, o.effects.qOut = some w → QOutForm w

theorem CmdOutcome.fits_nop : (CmdOutcome.ok {}).Fits where
  resistor := by rintro _ r ⟨⟩ ⟨⟩
  errPos := by rintro _ _ _ ⟨⟩
  normOut := by rintro w ⟨⟩
  qOut := by rintro w ⟨⟩

theorem CmdOutcome.fits_err (cs : List Cause) : (CmdOutcome.err cs 0 {}).Fits where
  resistor := by rintro _ r ⟨⟩
  errPos := by rintro _ _ _ ⟨⟩ -; rfl
  normOut := by rintro w ⟨⟩
  qOut := by rintro w ⟨⟩

theorem constructOutcome_fits (L : Nat) (seq : List Nat) : (constructOutcome L seq).Fits := by
  rcases constructOutcome_cases L seq with ⟨-, h⟩ | ⟨-, i, -, -, -, h⟩ | ⟨hL, hl, h⟩ <;> rw [h]
  · exact CmdOutcome.fits_err _
  · exact
      { resistor := by rintro _ r ⟨⟩
        errPos := by rintro _ _ _ ⟨⟩ hc; simp at hc
        normOut := by rintro w ⟨⟩
        qOut := by rintro w ⟨⟩ }
  · exact
      { resistor := by rintro _ r ⟨⟩ ⟨⟩; exact resistorOf_legal hL hl
        errPos := by rintro _ _ _ ⟨⟩
        normOut := by rintro w ⟨⟩
        qOut := by rintro w ⟨⟩ }

theorem normalizeOutcome_fits (o : Operands) : (normalizeOutcome o).Fits := by
  rcases normalizeOutcome_cases o with ⟨ds, x, hn, h⟩ | ⟨-, h⟩ <;> rw [h]
  · exact
      { resistor := by rintro _ r ⟨⟩ ⟨⟩
        errPos := by rintro _ _ _ ⟨⟩
        normOut := by rintro w ⟨⟩; exact normWord_form hn
        qOut := by rintro w ⟨⟩ }
  · exact
      { resistor := by rintro _ r ⟨⟩
        errPos := by rintro _ _ _ ⟨⟩ -; rfl
        normOut := by rintro w ⟨⟩; exact .inl rfl
        qOut := by rintro w ⟨⟩ }

theorem lookupOutcome_fits (v : Option (BitVec 16)) : (lookupOutcome v).Fits := by
  rcases lookupOutcome_cases v with ⟨q, -, h⟩ | ⟨-, h⟩ <;> rw [h]
  · exact
      { resistor := by rintro _ r ⟨⟩ ⟨⟩
        errPos := by rintro _ _ _ ⟨⟩
        normOut := by rintro w ⟨⟩
        qOut := by rintro w ⟨⟩; exact qFound_form q }
  · exact
      { resistor := by rintro _ r ⟨⟩
        errPos := by rintro _ _ _ ⟨⟩ -; rfl
        normOut := by rintro w ⟨⟩
        qOut := by rintro w ⟨⟩; exact .inl rfl }

theorem outcomeOf_fits (i : Instr) (s : State) : (outcomeOf i s).Fits := by
  rcases outcomeOf_forms i s with h | ⟨-, L, seq, h⟩ | ⟨-, cs, h⟩ | ⟨-, h⟩ | ⟨-, v, h⟩ <;> rw [h]
  · exact CmdOutcome.fits_nop
  · exact constructOutcome_fits L seq
  · exact CmdOutcome.fits_err cs
  · exact normalizeOutcome_fits s.snap
  · exact lookupOutcome_fits v

theorem wordOutcome_fits (w : Word) (s : State) : (wordOutcome w s).Fits := by
  unfold wordOutcome
  cases decode w with
  | ok i => exact outcomeOf_fits i s
  | error e => exact CmdOutcome.fits_err _

/-! ### The invariant, operation by operation -/

/-- An issue clears every per-command flag (R50). -/
theorem Status.issued_noFlags (st : Status) : st.issued.NoFlags := by
  intro c hc
  cases c
  case eBusywr => exact absurd rfl hc
  all_goals rfl

/-- E_BUSYWR is no per-command flag. -/
theorem Status.noFlags_busywr {st : Status} (b : Bool) (h : st.NoFlags) : ({ st with eBusywr := b } : Status).NoFlags := by
  intro c hc
  have := h c hc
  cases c
  case eBusywr => exact absurd rfl hc
  all_goals exact this

/-- The invariant holds after reset (R55). -/
theorem State.reset_inv : State.reset.Inv where
  resistor := .inl rfl
  busy := rfl
  issued := nofun
  errPos := fun _ => rfl
  ok := nofun
  pend := nofun
  normOut := .inl rfl
  qOut := .inl rfl

/-- The invariant says nothing of the host agent and the cycle counter. -/
theorem State.Inv.withHost {s : State} (h : s.Inv) (host : HostAgent) (n : Nat) :
    ({ s with host := host, cycle := n } : State).Inv :=
  ⟨h.resistor, h.busy, h.issued, h.errPos, h.ok, h.pend, h.normOut, h.qOut⟩

/-- The invariant says nothing of E_BUSYWR. -/
theorem State.Inv.withBusywr {s : State} (h : s.Inv) (b : Bool) :
    ({ s with status := { s.status with eBusywr := b } } : State).Inv where
  resistor := h.resistor
  busy := h.busy
  issued := fun hb => (h.issued hb).imp id (fun ⟨hp, hf⟩ => ⟨hp, Status.noFlags_busywr b hf⟩)
  errPos := h.errPos
  ok := fun ho => Status.noFlags_busywr b (h.ok ho)
  pend := h.pend
  normOut := h.normOut
  qOut := h.qOut

/-- An idle engine has nothing pending (R46). -/
theorem State.Inv.pend_none {s : State} (h : s.Inv) (hb : s.status.busy = false) : s.pend = none := by
  simpa [hb] using h.busy.symm

/-- A pending command means BUSY (R46). -/
theorem State.Inv.busy_of_pend {s : State} {p : Pending} (h : s.Inv) (hp : s.pend = some p) : s.status.busy = true := by
  simp [h.busy, hp]

/-- The issue of a command keeps the invariant (R50, R51, R277). -/
theorem State.Inv.issue {s : State} (h : s.Inv) (w : Word) : (s.issue w).Inv where
  resistor := h.resistor
  busy := rfl
  issued := fun _ => ⟨rfl, rfl, Status.issued_noFlags s.status⟩
  errPos := fun _ => rfl
  ok := nofun
  pend := by
    rintro p ⟨⟩
    exact ⟨rfl, Nat.le_add_left _ _⟩
  normOut := h.normOut
  qOut := h.qOut

/-- A write of the operand registers while idle keeps the invariant. -/
theorem State.Inv.withOperands {s : State} (h : s.Inv) (hb : s.status.busy = false) (o : Operands) :
    ({ s with operands := o } : State).Inv where
  resistor := h.resistor
  busy := h.busy
  issued := h.issued
  errPos := h.errPos
  ok := h.ok
  pend := fun p hp => by
    exact absurd ((h.pend_none hb).symm.trans hp) (by simp)
  normOut := h.normOut
  qOut := h.qOut

/-- A host write keeps the invariant (R62, R63). -/
theorem State.Inv.busWrite {s : State} (h : s.Inv) (a : Addr) (v : Word) : (busWrite a v s).Inv := by
  rcases busWrite_cases a v s with ⟨e, -⟩ | ⟨-, -, e⟩ | ⟨-, -, e⟩ | ⟨-, e⟩ | ⟨hb, -, -, o, e⟩ <;> rw [e]
  · exact h
  · exact h.withBusywr true
  · exact h.issue v
  · exact h.withBusywr _
  · exact h.withOperands hb o

/-- The host's side of an edge keeps the invariant. -/
theorem State.Inv.hostEdge {s : State} (h : s.Inv) (c : BusCycle) : (hostEdge c s).Inv := by
  refine State.Inv.withHost ?_ _ _
  unfold portWrite
  split
  · exact h.busWrite _ _
  · exact h

/-- A commit of a fitting outcome keeps the invariant while BUSY (R50). -/
theorem State.Inv.commit {s : State} {o : CmdOutcome} (h : s.Inv) (hb : s.status.busy = true) (hf : o.Fits) :
    (s.commit o).Inv := by
  obtain ⟨-, hpos, hflags⟩ := h.issued hb
  have hnorm : NormOutForm (s.commit o).normOut := by
    rw [State.commit_normOut]
    cases he : o.effects.normOut with
    | none => exact h.normOut
    | some w => exact hf.normOut w he
  have hq : QOutForm (s.commit o).qOut := by
    rw [State.commit_qOut]
    cases he : o.effects.qOut with
    | none => exact h.qOut
    | some w => exact hf.qOut w he
  have hbusy : (s.commit o).status.busy = (s.commit o).pend.isSome := by simp
  have hissued : (s.commit o).status.busy = true → (s.commit o).status.ok = false ∧ (s.commit o).status.errPos = 0 ∧
      (s.commit o).status.NoFlags := by simp
  have hpend : ∀ p, (s.commit o).pend = some p → p.snap = (s.commit o).operands ∧ 1 ≤ p.remaining := by simp
  cases o with
  | ok e =>
    refine ⟨?_, hbusy, hissued, fun _ => hpos, fun _ c hc => ?_, hpend, hnorm, hq⟩
    · rw [State.commit_ok, State.succeed_resistor]
      cases he : e.resistor with
      | none => exact h.resistor
      | some r => exact hf.resistor e r rfl he
    · rw [State.commit_ok, State.succeed_status, Status.succeeded_flag]
      exact hflags c hc
  | err cs pos e =>
    refine ⟨h.resistor, hbusy, hissued, fun hc => ?_, nofun, hpend, hnorm, hq⟩
    rw [State.commit_err, State.raise_status, Status.failed_eColor, Bool.or_eq_false_iff] at hc
    have hpos0 : pos = 0 := hf.errPos cs pos e rfl (by simpa using hc.2)
    rw [State.commit_err, State.raise_status, Status.failed_errPos, hpos0]
    rfl

/-- One cycle of the countdown keeps the invariant (R277). -/
theorem State.Inv.countdown {s : State} {p : Pending} (h : s.Inv) (hp : s.pend = some p) (hr : 1 < p.remaining) :
    ({ s with pend := some { p with remaining := p.remaining - 1 } } : State).Inv where
  resistor := h.resistor
  busy := h.busy_of_pend hp
  issued := h.issued
  errPos := h.errPos
  ok := h.ok
  pend := by
    rintro q ⟨⟩
    exact ⟨(h.pend p hp).1, by show 1 ≤ p.remaining - 1; omega⟩
  normOut := h.normOut
  qOut := h.qOut

/-- While BUSY the host's side of an edge changes E_BUSYWR alone, beside the host and the counter (R62, R63). -/
theorem hostEdge_busy {s : State} (hb : s.status.busy = true) (c : BusCycle) :
    ∃ b : Bool, hostEdge c s =
      { s with
        status := { s.status with eBusywr := b }
        host := s.host.advance (portRdata c s)
        cycle := s.cycle + 1 } := by
  obtain ⟨b, e⟩ := portWrite_busy hb c
  exact ⟨b, by rw [hostEdge, e]⟩

/-- Settles O28, by the operations of a clock edge: each keeps the invariant. -/
theorem stepKeepsInvariant : Obligations.StepKeepsInvariant := by
  intro s t h hstep
  have hpend : ∀ p, s.pend = some p → (hostEdge s.host.signals s).pend = some p := fun p hp => by
    obtain ⟨b, e⟩ := hostEdge_busy (h.busy_of_pend hp) s.host.signals
    rw [e]
    exact hp
  have hedge := h.hostEdge s.host.signals
  rcases step_cases s with ⟨-, e⟩ | ⟨-, -, e⟩ | ⟨-, p, hp, -, e⟩ | ⟨-, p, hp, hr, e⟩ <;> rw [e] at hstep
  · cases hstep
    exact State.reset_inv.withHost _ _
  · cases hstep
    exact hedge
  · rw [execWord_eq_commit] at hstep
    cases hstep
    exact hedge.commit (hedge.busy_of_pend (hpend p hp)) (wordOutcome_fits _ _)
  · cases hstep
    exact hedge.countdown (hpend p hp) hr

/-- Settles O29. -/
theorem resetHasInvariant : Obligations.ResetHasInvariant := State.reset_inv

end Sys2Proof.Machine
end

section
/-! SUPPORT and proofs. The clock edge: what each kind of step answers, who writes which register, and how a pending
command runs to its commit. -/

namespace Sys2Proof.Machine

/-! ### The four kinds of a step -/

theorem step_reset {s : State} (hr : s.host.signals.rst = true) : step s = .next (resetEdge s.host.signals s) := by
  simp [step, clockEdge, hr]

theorem step_idle {s : State} (hr : s.host.signals.rst = false) (hp : s.pend = none) :
    step s = .next (hostEdge s.host.signals s) := by
  simp [step, clockEdge, engineEdge, hr, hp]

theorem step_commit {s : State} {p : Pending} (hr : s.host.signals.rst = false) (hp : s.pend = some p)
    (hn : p.remaining ≤ 1) : step s = execWord p.word (hostEdge s.host.signals s) := by
  simp [step, clockEdge, engineEdge, hr, hp, hn]

theorem step_countdown {s : State} {p : Pending} (hr : s.host.signals.rst = false) (hp : s.pend = some p)
    (hn : 1 < p.remaining) :
    step s = .next { hostEdge s.host.signals s with pend := some { p with remaining := p.remaining - 1 } } := by
  simp [step, clockEdge, engineEdge, hr, hp, Nat.not_le.mpr hn]

theorem execWord_of_decode {w : Word} {i : Instr} (h : decode w = .ok i) (s : State) : execWord w s = exec i s := by
  simp [execWord, h]

/-- Settles O9: the commit cycle runs the decoded command after the host's access. -/
theorem stepRunsDecodedCommand : Obligations.StepRunsDecodedCommand := by
  intro s p i hp hn hr hd
  rw [step_commit hr hp hn, execWord_of_decode hd]
  rfl

/-- Settles O12: an edge with reset is `resetEdge`, whatever was pending. -/
theorem resetWins : Obligations.ResetWins := fun _ hr => step_reset hr

/-- Settles O13: the 32 words of the port are read one by one. -/
theorem resetValues : Obligations.ResetValues := ⟨by decide, rfl, rfl, rfl⟩

/-- Settles O15: an idle engine takes a write of CMD as an issue. -/
theorem cmdWriteIssues : Obligations.CmdWriteIssues := by
  intro s w h hb hsig
  refine ⟨latency w s, Nat.le_add_left _ _, ?_⟩
  have hw : busWrite 1 w s = s.issue w := by
    show (if s.status.busy = true then s.dropWrite else s.issue w) = _
    simp [hb]
  rw [step_idle (by rw [hsig]) (h.pend_none hb), hsig]
  have hport : portWrite { rst := false, wr := true, rd := false, addr := 1, wdata := w } s = s.issue w := hw
  rw [hostEdge, hport]
  rfl

/-! ### What a commit leaves and reports -/

/-- An error of a command word names at least one cause, and never E_BUSYWR (R232, R244). -/
theorem wordOutcome_err {w : Word} {s : State} {cs : List Cause} {pos : Nat} {e : Effects}
    (h : wordOutcome w s = .err cs pos e) : cs ≠ [] ∧ Cause.eBusywr ∉ cs := by
  unfold wordOutcome at h
  cases hd : decode w with
  | ok i =>
    rw [hd] at h
    obtain ⟨hne, hb, -⟩ := outcomeOf_err h
    exact ⟨hne, hb⟩
  | error d =>
    rw [hd] at h
    cases h
    simp

/-- A commit of an outcome that does not name E_BUSYWR leaves that flag. -/
theorem State.commit_eBusywr {o : CmdOutcome} (h : ∀ cs pos e, o = .err cs pos e → Cause.eBusywr ∉ cs) (s : State) :
    (s.commit o).status.eBusywr = s.status.eBusywr := by
  cases o with
  | ok e => rfl
  | err cs pos e => simp [h cs pos e rfl]

/-- Settles O33: every command is one commit. -/
theorem commandsLeaveOperandsAlone : Obligations.CommandsLeaveOperandsAlone := by
  intro i s t h
  rw [exec_eq] at h
  cases h
  have hb := State.commit_eBusywr (o := outcomeOf i s) (fun cs pos e ho => (outcomeOf_err ho).2.1) s
  simp [hb]

/-- Settles O37: a success keeps the flags clear, an error sets each flag of a cause it names. -/
theorem everyCommitReports : Obligations.EveryCommitReports := by
  intro w s t hf h
  rw [execWord_eq_commit] at h
  cases h
  cases ho : wordOutcome w s with
  | ok e =>
    refine .inl ⟨rfl, fun c hc => ?_⟩
    simpa using hf c hc
  | err cs pos e =>
    obtain ⟨hne, hb⟩ := wordOutcome_err ho
    obtain ⟨c, hc⟩ := List.exists_mem_of_ne_nil cs hne
    exact .inr ⟨rfl, c, fun h => hb (h ▸ hc), by simp [hc]⟩

/-! ### Who writes R, NORM_OUT and Q_OUT -/

theorem constructOutcome_effects (L : Nat) (seq : List Nat) :
    (constructOutcome L seq).effects.normOut = none ∧ (constructOutcome L seq).effects.qOut = none := by
  rcases constructOutcome_cases L seq with ⟨-, h⟩ | ⟨-, i, -, -, -, h⟩ | ⟨-, -, h⟩ <;> rw [h] <;> exact ⟨rfl, rfl⟩

theorem normalizeOutcome_qOut (o : Operands) : (normalizeOutcome o).effects.qOut = none := by
  rcases normalizeOutcome_cases o with ⟨ds, x, -, h⟩ | ⟨-, h⟩ <;> rw [h] <;> rfl

theorem lookupOutcome_normOut (v : Option (BitVec 16)) : (lookupOutcome v).effects.normOut = none := by
  rcases lookupOutcome_cases v with ⟨q, -, h⟩ | ⟨-, h⟩ <;> rw [h] <;> rfl

/-- Only CONSTRUCT, DETERMINE and WITH_COLOR answer a resistor (R40). -/
theorem outcomeOf_resistor {i : Instr} {s : State} {e : Effects} (h : outcomeOf i s = .ok e) (hr : e.resistor ≠ none) :
    commandWritesR i = true := by
  rcases outcomeOf_forms i s with h' | ⟨hi, -⟩ | ⟨hi, -⟩ | ⟨-, h'⟩ | ⟨-, v, h'⟩
  · cases h'.symm.trans h
    exact absurd rfl hr
  · exact hi
  · exact hi
  · rcases normalizeOutcome_cases s.snap with ⟨ds, x, -, hn⟩ | ⟨-, hn⟩ <;> cases (h'.trans hn).symm.trans h
    exact absurd rfl hr
  · rcases lookupOutcome_cases v with ⟨q, -, hv⟩ | ⟨-, hv⟩ <;> cases (h'.trans hv).symm.trans h
    exact absurd rfl hr

/-- Only NORMALIZE answers a NORM_OUT (R43). -/
theorem outcomeOf_normOut {i : Instr} {s : State} (h : (outcomeOf i s).effects.normOut ≠ none) : i = .normalize := by
  rcases outcomeOf_forms i s with h' | ⟨-, L, seq, h'⟩ | ⟨-, cs, h'⟩ | ⟨hi, -⟩ | ⟨-, v, h'⟩
  · exact absurd (by rw [h']; rfl) h
  · exact absurd (by rw [h', (constructOutcome_effects L seq).1]) h
  · exact absurd (by rw [h']; rfl) h
  · exact hi
  · exact absurd (by rw [h', lookupOutcome_normOut]) h

/-- Only a lookup command answers a Q_OUT (R44). -/
theorem outcomeOf_qOut {i : Instr} {s : State} (h : (outcomeOf i s).effects.qOut ≠ none) : isLookupCommand i = true := by
  rcases outcomeOf_forms i s with h' | ⟨-, L, seq, h'⟩ | ⟨-, cs, h'⟩ | ⟨-, h'⟩ | ⟨hi, -⟩
  · exact absurd (by rw [h']; rfl) h
  · exact absurd (by rw [h', (constructOutcome_effects L seq).2]) h
  · exact absurd (by rw [h']; rfl) h
  · exact absurd (by rw [h', normalizeOutcome_qOut]) h
  · exact hi

/-- A word with register effects decodes to a command: an illegal word has none (R232). -/
theorem wordOutcome_effects {w : Word} {s : State} (h : (wordOutcome w s).effects ≠ {}) :
    ∃ i, decode w = .ok i ∧ wordOutcome w s = outcomeOf i s := by
  unfold wordOutcome at h ⊢
  cases hd : decode w with
  | ok i => exact ⟨i, rfl, rfl⟩
  | error d =>
    rw [hd] at h
    exact absurd rfl h

theorem ne_none_of_getD_ne {α : Type} {o : Option α} {a : α} (h : o.getD a ≠ a) : o ≠ none := by
  rintro rfl
  exact h rfl

/-- A step without reset that changes a result register commits the pending command, on top of the host's access. -/
theorem step_changes_results {s t : State} (hstep : step s = .next t) (hr : s.host.signals.rst = false)
    (h : t.resistor ≠ s.resistor ∨ t.normOut ≠ s.normOut ∨ t.qOut ≠ s.qOut) :
    ∃ p, s.pend = some p ∧ p.remaining ≤ 1 ∧
      t = (hostEdge s.host.signals s).commit (wordOutcome p.word (hostEdge s.host.signals s)) := by
  obtain ⟨fr, fn, fq⟩ := portWrite_frame s.host.signals s
  rcases step_cases s with ⟨hr', -⟩ | ⟨-, -, e⟩ | ⟨-, p, hp, hn, e⟩ | ⟨-, p, -, -, e⟩
  · rw [hr] at hr'
    cases hr'
  · rw [e] at hstep
    cases hstep
    simp [fr, fn, fq] at h
  · rw [e, execWord_eq_commit] at hstep
    cases hstep
    exact ⟨p, hp, hn, rfl⟩
  · rw [e] at hstep
    cases hstep
    simp [fr, fn, fq] at h

/-- Settles O31: R changes only in a commit that succeeds with a resistor. -/
theorem onlySuccessfulCommandsWriteR : Obligations.OnlySuccessfulCommandsWriteR := by
  intro s t hstep hne
  cases hr : s.host.signals.rst with
  | true => exact .inl rfl
  | false =>
    right
    obtain ⟨p, hp, hn, rfl⟩ := step_changes_results hstep hr (.inl hne)
    have hsame : (hostEdge s.host.signals s).resistor = s.resistor := (portWrite_frame s.host.signals s).1
    cases ho : wordOutcome p.word (hostEdge s.host.signals s) with
    | err cs pos e => exact absurd (by rw [ho]; exact hsame) hne
    | ok e =>
      have he : e.resistor ≠ none := by
        rw [ho, State.commit_ok, State.succeed_resistor, hsame] at hne
        exact ne_none_of_getD_ne hne
      obtain ⟨i, hd, hi⟩ := wordOutcome_effects (w := p.word) (s := hostEdge s.host.signals s)
        (by rw [ho]; rintro rfl; exact he rfl)
      exact ⟨p, i, hp, hn, hd, outcomeOf_resistor (hi.symm.trans ho) he, rfl⟩

/-- Settles O32: a commit changes a result register only by the effects of the command's outcome. -/
theorem resultRegistersHaveOneWriter : Obligations.ResultRegistersHaveOneWriter := by
  intro s t hstep hr
  obtain ⟨-, fn, fq⟩ := portWrite_frame s.host.signals s
  refine ⟨fun hne => ?_, fun hne => ?_⟩
  · obtain ⟨p, hp, -, rfl⟩ := step_changes_results hstep hr (.inr (.inl hne))
    rw [State.commit_normOut, hostEdge_normOut, fn] at hne
    have he := ne_none_of_getD_ne hne
    obtain ⟨i, hd, hi⟩ := wordOutcome_effects (w := p.word) (s := hostEdge s.host.signals s)
      (fun h => he (by rw [h]))
    rw [hi] at he
    exact ⟨p, hp, outcomeOf_normOut he ▸ hd⟩
  · obtain ⟨p, hp, -, rfl⟩ := step_changes_results hstep hr (.inr (.inr hne))
    rw [State.commit_qOut, hostEdge_qOut, fq] at hne
    have he := ne_none_of_getD_ne hne
    obtain ⟨i, hd, hi⟩ := wordOutcome_effects (w := p.word) (s := hostEdge s.host.signals s)
      (fun h => he (by rw [h]))
    rw [hi] at he
    exact ⟨p, i, hp, hd, outcomeOf_qOut he⟩

/-! ### E_BUSYWR (R26, R63) -/

/-- Without reset only the host's access of the cycle touches E_BUSYWR: no engine edge does. -/
theorem step_eBusywr {s t : State} (hstep : step s = .next t) (hr : s.host.signals.rst = false) :
    t.status.eBusywr = (portWrite s.host.signals s).status.eBusywr := by
  rcases step_cases s with ⟨hr', -⟩ | ⟨-, -, e⟩ | ⟨-, p, -, -, e⟩ | ⟨-, p, -, -, e⟩
  · rw [hr] at hr'
    cases hr'
  · rw [e] at hstep
    cases hstep
    rfl
  · rw [e, execWord_eq_commit] at hstep
    cases hstep
    exact State.commit_eBusywr (fun cs pos e ho => (wordOutcome_err ho).2) _
  · rw [e] at hstep
    cases hstep
    rfl

/-- How a host write changes E_BUSYWR (R62, R63). -/
theorem busWrite_eBusywr (a : Addr) (v : Word) (s : State) :
    (busWrite a v s).status.eBusywr = s.status.eBusywr ∨
    (s.status.busy = true ∧ DroppableWord a ∧ (busWrite a v s).status.eBusywr = true) ∨
    (a = 2 ∧ (busWrite a v s).status.eBusywr = (s.status.eBusywr && !v.getLsbD 13)) := by
  rcases busWrite_cases a v s with ⟨e, -⟩ | ⟨hb, ha, e⟩ | ⟨-, -, e⟩ | ⟨ha, e⟩ | ⟨-, -, -, o, e⟩ <;> rw [e]
  · exact .inl rfl
  · exact .inr (.inl ⟨hb, ha, rfl⟩)
  · exact .inl rfl
  · exact .inr (.inr ⟨ha, rfl⟩)
  · exact .inl rfl

/-- Settles O30, by the cases of a host write. -/
theorem busywrIsSticky : Obligations.BusywrIsSticky := by
  intro s t hstep
  cases hr : s.host.signals.rst with
  | true =>
    rw [step_reset hr] at hstep
    cases hstep
    exact ⟨fun _ _ => .inl rfl, nofun⟩
  | false =>
    rw [step_eBusywr hstep hr]
    unfold portWrite
    cases hw : s.host.signals.wr with
    | false => simp +contextual
    | true =>
      rcases busWrite_eBusywr s.host.signals.addr s.host.signals.wdata s with e | ⟨hb, ha, e⟩ | ⟨ha, e⟩
      · simp +contextual [e]
      · simp [e, hb, ha]
      · simp only [↓reduceIte, e]
        simp +contextual [ha]

/-! ### A pending command runs to its commit (R277, R278) -/

/-- Two states agree on the operand registers, on R, NORM_OUT and Q_OUT, and on STATUS but for E_BUSYWR. -/
structure State.SameRegisters (s t : State) : Prop where
  operands : t.operands = s.operands
  resistor : t.resistor = s.resistor
  normOut : t.normOut = s.normOut
  qOut : t.qOut = s.qOut
  status : { t.status with eBusywr := false } = { s.status with eBusywr := false }

theorem State.SameRegisters.refl (s : State) : s.SameRegisters s := ⟨rfl, rfl, rfl, rfl, rfl⟩

theorem State.SameRegisters.trans {s t u : State} (h : s.SameRegisters t) (h' : t.SameRegisters u) :
    s.SameRegisters u :=
  ⟨h'.operands.trans h.operands, h'.resistor.trans h.resistor, h'.normOut.trans h.normOut, h'.qOut.trans h.qOut,
    h'.status.trans h.status⟩

/-- While BUSY the host's side of an edge keeps the registers, but for E_BUSYWR. -/
theorem hostEdge_sameRegisters {s : State} (hb : s.status.busy = true) (c : BusCycle) :
    s.SameRegisters (hostEdge c s) := by
  obtain ⟨b, e⟩ := hostEdge_busy hb c
  rw [e]
  exact ⟨rfl, rfl, rfl, rfl, rfl⟩

/-- One outcome committed on two such states gives two such states. -/
theorem State.SameRegisters.commit {s t : State} (h : s.SameRegisters t) (o : CmdOutcome) :
    (s.commit o).SameRegisters (t.commit o) := by
  cases o with
  | ok e =>
    exact ⟨h.operands, by simp [h.resistor], by simp [h.normOut], by simp [h.qOut],
      congrArg Status.succeeded h.status⟩
  | err cs pos e =>
    exact ⟨h.operands, h.resistor, by simp [h.normOut], by simp [h.qOut],
      congrArg (fun st => { st.failed cs pos with eBusywr := false }) h.status⟩

theorem HostAgent.NeverResets.signals {h : HostAgent} (hn : h.NeverResets) : h.signals.rst = false := by
  unfold HostAgent.signals
  split
  case h_1 => rfl
  case h_2 c rest hp => exact hn c (by simp [hp])
  case h_3 => rfl

theorem HostAgent.NeverResets.advance {h : HostAgent} (hn : h.NeverResets) (d : Option Word) :
    (h.advance d).NeverResets := by
  intro c hc
  refine hn c ?_
  unfold HostAgent.advance at hc
  split at hc
  case h_1 => exact hc
  case h_2 c' rest hp => exact hp ▸ List.mem_cons_of_mem _ hc
  case h_3 rest hp =>
    split at hc
    · exact hc
    · exact hp ▸ List.mem_cons_of_mem _ hc

/-- A run of one step more. -/
theorem run_succ {s t : State} (h : step s = .next t) (k : Nat) : core.run (k + 1) s = core.run k t := by
  have hc : core.step s = .next t := h
  simp only [Host.Core.run]
  rw [hc]

/-- A countdown cycle keeps the invariant and the registers, and leaves one cycle less. -/
theorem countdown_cycle {s : State} {p : Pending} (h : s.Inv) (hp : s.pend = some p) (hn : s.host.NeverResets)
    (hr : 1 < p.remaining) :
    ∃ t, step s = .next t ∧ t.Inv ∧ t.pend = some { p with remaining := p.remaining - 1 } ∧ t.host.NeverResets ∧
      s.SameRegisters t := by
  have e := step_countdown hn.signals hp hr
  obtain ⟨ho, hR, hN, hQ, hS⟩ := hostEdge_sameRegisters (h.busy_of_pend hp) s.host.signals
  exact ⟨_, e, stepKeepsInvariant s _ h e, rfl, hn.advance _, ho, hR, hN, hQ, hS⟩

/-- The commit cycle commits the word's outcome on the registers before it. -/
theorem commit_cycle {s : State} {p : Pending} (h : s.Inv) (hp : s.pend = some p) (hn : s.host.NeverResets)
    (hr : p.remaining ≤ 1) :
    ∃ t, step s = .next t ∧ t.pend = none ∧ (s.commit (wordOutcome p.word s)).SameRegisters t := by
  have hb := h.busy_of_pend hp
  have hsnap : (hostEdge s.host.signals s).snap = s.snap := by
    obtain ⟨b, e⟩ := hostEdge_busy hb s.host.signals
    rw [e]
    rfl
  have hsame := hostEdge_sameRegisters hb s.host.signals
  have hout := wordOutcome_congr hsnap hsame.resistor p.word
  refine ⟨_, (step_commit hn.signals hp hr).trans (execWord_eq_commit _ _), State.commit_pend _ _, ?_⟩
  rw [hout]
  exact hsame.commit _

/-- A command with `n + 1` cycles left, by induction on `n`: BUSY with the same registers before the last cycle, its
commit's registers after it. -/
theorem pending_runs (n : Nat) : ∀ (s : State) (p : Pending), s.Inv → s.pend = some p → s.host.NeverResets →
    p.remaining = n + 1 →
    (∀ k, k ≤ n → ∃ u, core.run k s = .next u ∧ u.status.busy = true ∧ s.SameRegisters u) ∧
      ∃ t, core.run (n + 1) s = .next t ∧ t.pend = none ∧ (s.commit (wordOutcome p.word s)).SameRegisters t := by
  induction n with
  | zero =>
    intro s p h hp hn hr
    obtain ⟨t, e, ht⟩ := commit_cycle h hp hn hr.le
    refine ⟨fun k hk => ?_, t, run_succ e 0, ht⟩
    obtain rfl := Nat.le_zero.mp hk
    exact ⟨s, rfl, h.busy_of_pend hp, .refl s⟩
  | succ n ih =>
    intro s p h hp hn hr
    obtain ⟨s', e, h', hp', hn', hsame⟩ := countdown_cycle h hp hn (by omega)
    obtain ⟨hbefore, t, ht, hpend, hcommit⟩ := ih s' _ h' hp' hn' (by show p.remaining - 1 = n + 1; omega)
    refine ⟨fun k hk => ?_, t, (run_succ e _).trans ht, hpend, ?_⟩
    · cases k with
      | zero => exact ⟨s, rfl, h.busy_of_pend hp, .refl s⟩
      | succ k =>
        obtain ⟨u, hu, hb, hsame'⟩ := hbefore k (Nat.le_of_succ_le_succ hk)
        exact ⟨u, (run_succ e k).trans hu, hb, hsame.trans hsame'⟩
    · have hsnap : s'.snap = s.snap := by simp [State.snap, hp, hp']
      rw [wordOutcome_congr hsnap hsame.resistor] at hcommit
      exact (hsame.commit _).trans hcommit

/-- Settles O16, from `pending_runs`: the invariant leaves at least one cycle. -/
theorem pendingCommandCommitsOnTime : Obligations.PendingCommandCommitsOnTime := by
  intro s p h hp hn
  obtain ⟨n, hr⟩ : ∃ n, p.remaining = n + 1 := ⟨_, (Nat.sub_add_cancel (h.pend p hp).2).symm⟩
  obtain ⟨hbefore, t, ht, hpend, hcommit⟩ := pending_runs n s p h hp hn hr
  refine ⟨fun k hk => ?_, _, t, execWord_eq_commit _ _, hr ▸ ht, hcommit.resistor, hcommit.normOut, hcommit.qOut, ?_,
    hpend, hcommit.status⟩
  · obtain ⟨u, hu, hb, hsame⟩ := hbefore k (by omega)
    exact ⟨u, hu, hb, hsame.resistor, hsame.normOut, hsame.qOut, hsame.operands⟩
  · rw [hcommit.operands, State.commit_operands]

end Sys2Proof.Machine
end

section
/-! SUPPORT and proofs. The register port: what each word reads and takes, and the host statements that fill the
operand registers. -/

namespace Sys2Proof.Machine

/-! ### STATUS, R_STATE and the SPEC words by their fields -/

/-- BUSY, OK and each flag stand at their bits (R26, R240). -/
theorem Status.word_flag (st : Status) (c : Cause) : st.word.getLsbD c.code = st.flag c := by
  cases c <;> simp only [Status.word, BitVec.getLsbD_append, Cause.code] <;> exact BitVec.getLsbD_ofBool _ _

theorem Status.word_busy (st : Status) : st.word.getLsbD 0 = st.busy := by
  simp only [Status.word, BitVec.getLsbD_append]
  exact BitVec.getLsbD_ofBool _ _

theorem Status.word_ok (st : Status) : st.word.getLsbD 1 = st.ok := by
  simp only [Status.word, BitVec.getLsbD_append]
  exact BitVec.getLsbD_ofBool _ _

/-- ERR_POS stands in [18:16], and the reserved bits are 0 (R26). -/
theorem Status.word_fields (st : Status) :
    st.word.extractLsb 31 19 = 0 ∧ st.word.extractLsb 18 16 = st.errPos ∧ st.word.extractLsb 15 14 = 0 := by
  refine ⟨?_, ?_, ?_⟩ <;>
    simp (disch := decide) only [Status.word, BitVec.extractLsb, BitVec.extractLsb'_append_eq_of_le,
      BitVec.extractLsb'_append_eq_of_add_le] <;>
    exact BitVec.extractLsb'_eq_self

theorem rStateWord_invalid {r : Resistor} (h : r.valid = false) : rStateWord r = 0 := by simp [rStateWord, h]

/-- R_STATE of a valid resistor, by its fields (R41). -/
theorem rStateWord_fields {r : Resistor} (h : r.valid = true) :
    (rStateWord r).getLsbD 31 = true ∧ (rStateWord r).extractLsb 30 27 = 0 ∧
      (rStateWord r).extractLsb 26 24 = r.count ∧
      ∀ i, i < 6 → (rStateWord r).extractLsb' (4 * i) 4 = bandNibble r i := by
  simp only [rStateWord, h, if_true]
  refine ⟨?_, ?_, ?_, fun i hi => ?_⟩
  · simp only [BitVec.getLsbD_append]
    rfl
  · simp (disch := decide) only [BitVec.extractLsb, BitVec.extractLsb'_append_eq_of_le,
      BitVec.extractLsb'_append_eq_of_add_le]
    exact BitVec.extractLsb'_eq_self
  · simp (disch := decide) only [BitVec.extractLsb, BitVec.extractLsb'_append_eq_of_le,
      BitVec.extractLsb'_append_eq_of_add_le]
    exact BitVec.extractLsb'_eq_self
  · interval_cases i <;>
      simp (disch := decide) only [BitVec.extractLsb'_append_eq_of_le, BitVec.extractLsb'_append_eq_of_add_le] <;>
      exact BitVec.extractLsb'_eq_self

/-- SPEC_OHM by its fields (R42). -/
theorem specOhmWord_fields (p : Specs) :
    (specOhmWord p).getLsbD 31 = true ∧ (specOhmWord p).extractLsb 30 24 = 0 ∧
      (specOhmWord p).extractLsb 23 16 = enc 8 p.ohmE ∧ (specOhmWord p).extractLsb 15 10 = 0 ∧
      (specOhmWord p).extractLsb 9 0 = BitVec.ofNat 10 p.ohmM := by
  refine ⟨by simp only [specOhmWord, BitVec.getLsbD_append]; rfl, ?_, ?_, ?_, ?_⟩ <;>
    simp (disch := decide) only [specOhmWord, BitVec.extractLsb, BitVec.extractLsb'_append_eq_of_le,
      BitVec.extractLsb'_append_eq_of_add_le] <;>
    exact BitVec.extractLsb'_eq_self

/-- SPEC_TOL by its fields (R42). -/
theorem specTolWord_fields (p : Specs) :
    (specTolWord p).getLsbD 31 = true ∧ (specTolWord p).extractLsb 30 25 = 0 ∧
      (specTolWord p).getLsbD 24 = p.tcr.isSome ∧ (specTolWord p).extractLsb 23 16 = BitVec.ofNat 8 (p.tcr.getD 0) ∧
      (specTolWord p).extractLsb 15 12 = 0 ∧ (specTolWord p).extractLsb 11 0 = BitVec.ofNat 12 p.tolBp := by
  refine ⟨by simp only [specTolWord, BitVec.getLsbD_append]; rfl, ?_,
    by simp only [specTolWord, BitVec.getLsbD_append]; exact BitVec.getLsbD_ofBool _ _, ?_, ?_, ?_⟩ <;>
    simp (disch := decide) only [specTolWord, BitVec.extractLsb, BitVec.extractLsb'_append_eq_of_le,
      BitVec.extractLsb'_append_eq_of_add_le] <;>
    exact BitVec.extractLsb'_eq_self

/-- SPEC_MIN and SPEC_MAX by their fields (R42). -/
theorem specBoundWord_fields (p : Specs) :
    (specMinWord p).extractLsb 31 24 = enc 8 p.boundE ∧ (specMinWord p).extractLsb 23 0 = BitVec.ofNat 24 p.minM ∧
      (specMaxWord p).extractLsb 31 24 = enc 8 p.boundE ∧ (specMaxWord p).extractLsb 23 0 = BitVec.ofNat 24 p.maxM := by
  refine ⟨?_, ?_, ?_, ?_⟩ <;>
    simp (disch := decide) only [specMinWord, specMaxWord, BitVec.extractLsb, BitVec.extractLsb'_append_eq_of_le,
      BitVec.extractLsb'_append_eq_of_add_le] <;>
    exact BitVec.extractLsb'_eq_self

/-- The reserved bits of the SPEC views are 0, with or without a resistor (R34, R42). -/
theorem specView_reserved (r : Resistor) :
    (specView specOhmWord r).extractLsb 30 24 = 0 ∧ (specView specOhmWord r).extractLsb 15 10 = 0 ∧
      (specView specTolWord r).extractLsb 30 25 = 0 ∧ (specView specTolWord r).extractLsb 15 12 = 0 := by
  cases h : specs r with
  | none =>
    rw [specView_none _ h, specView_none _ h]
    decide
  | some p =>
    obtain ⟨-, o30, -, o15, -⟩ := specOhmWord_fields p
    obtain ⟨-, t30, -, -, t15, -⟩ := specTolWord_fields p
    rw [specView_some _ h, specView_some _ h]
    exact ⟨o30, o15, t30, t15⟩

/-- A register of fewer than 32 bits reads 0 above them (R34). -/
theorem zeroExtend_reserved {n : Nat} (v : BitVec n) (hi : Nat) :
    (v.zeroExtend 32).extractLsb hi n = 0 := by
  ext i hi'
  simp [BitVec.getLsbD_of_ge]

/-- Settles O24, from the fields of the STATUS word. -/
theorem statusWordLayout : Obligations.StatusWordLayout := by
  intro s
  obtain ⟨h31, h18, h15⟩ := s.status.word_fields
  rw [busRead_status]
  exact ⟨s.status.word_flag, s.status.word_busy, s.status.word_ok, h18, h15, h31⟩

/-- Settles O26, from the fields of R_STATE. -/
theorem rStateShowsBands : Obligations.RStateShowsBands := by
  refine ⟨rfl, fun s => ⟨rStateWord_invalid, fun hv => ?_⟩⟩
  obtain ⟨h31, h30, h26, hband⟩ := rStateWord_fields hv
  rw [busRead_rState]
  refine ⟨h31, h30, h26, fun i hi => ?_⟩
  rw [hband i hi, bandNibble]
  split <;> rfl

/-- Settles O23, register by register. -/
theorem fixedAndReservedWords : Obligations.FixedAndReservedWords := by
  intro s v
  obtain ⟨s31, -, s15⟩ := s.status.word_fields
  obtain ⟨o30, o15, t30, t15⟩ := specView_reserved s.resistor
  have hreserved : ∀ a : Addr, (10 ≤ a.toNat ∧ a.toNat ≤ 15) ∨ 23 ≤ a.toNat → busRead a s = 0 ∧ busWrite a v s = s :=
    fun a ha => by simp [busRead, busWrite, regAt_reserved a ha]
  have hrState : (rStateWord s.resistor).extractLsb 30 27 = 0 := by
    cases hv : s.resistor.valid with
    | false => rw [rStateWord_invalid hv]; decide
    | true => exact (rStateWord_fields hv).2.1
  have hnorm : s.Inv → s.normOut.extractLsb 30 24 = 0 ∧ s.normOut.extractLsb 15 14 = 0 := fun h => by
    rcases h.normOut with e | ⟨-, h30, h15, -⟩
    · rw [e]; decide
    · exact ⟨h30, h15⟩
  have hq : s.Inv → s.qOut.extractLsb 30 16 = 0 := fun h => by
    rcases h.qOut with e | ⟨-, h30⟩
    · rw [e]; decide
    · exact h30
  exact ⟨⟨rfl, rfl⟩, rfl, hreserved, s31, s15, zeroExtend_reserved _ 31, zeroExtend_reserved _ 31,
    zeroExtend_reserved _ 31, hrState, o30, o15, t30, t15, fun h => ⟨(hnorm h).1, (hnorm h).2, hq h⟩⟩

/-! ### Reads while a command is pending (R275) -/

/-- STATUS is its BUSY, OK, flags and ERR_POS: the reserved bits hold nothing (R26). -/
theorem Status.ext_flags {st st' : Status} (hb : st.busy = st'.busy) (hok : st.ok = st'.ok)
    (hpos : st.errPos = st'.errPos) (hf : ∀ c, st.flag c = st'.flag c) : st = st' := by
  cases st
  cases st'
  rw [Status.mk.injEq]
  exact ⟨hb, hok, hf .eCmd, hf .eCount, hf .eColor, hf .eTol, hf .eTcr, hf .eNotrep, hf .eMisstol, hf .eNolayout,
    hf .eBounds, hf .eNores, hf .eUndef, hf .eBusywr, hpos⟩

/-- STATUS with BUSY 1 and every other field but E_BUSYWR clear is STATUS as an issue leaves it (R50). -/
theorem Status.eq_issued {st : Status} (hb : st.busy = true) (hok : st.ok = false) (hpos : st.errPos = 0)
    (hf : st.NoFlags) : st = st.issued := by
  refine Status.ext_flags hb hok hpos fun c => ?_
  by_cases hc : c = .eBusywr
  · rw [hc]
    rfl
  · rw [hf c hc, st.issued_noFlags c hc]

/-- The STATUS word of an issued command (R26, R50). -/
theorem Status.issued_word (st : Status) :
    st.issued.word = if st.eBusywr then 0x00002001#32 else 0x00000001#32 := by
  have h : ∀ b : Bool, ({ Status.reset with busy := true, eBusywr := b } : Status).word
      = if b then 0x00002001#32 else 0x00000001#32 := by decide
  exact h st.eBusywr

/-- The words from 16 on show R, NORM_OUT and Q_OUT alone (R23). -/
theorem busRead_results {s t : State} (hr : t.resistor = s.resistor) (hn : t.normOut = s.normOut)
    (hq : t.qOut = s.qOut) {a : Addr} (ha : 16 ≤ a.toNat) : busRead a t = busRead a s := by
  unfold busRead
  cases h : regAt a with
  | none => rfl
  | some r =>
    obtain rfl := regAt_addr h
    cases r
    case rState | specOhm | specTol | specMin | specMax => simp [readReg, hr]
    case normOut => exact hn
    case qOut => exact hq
    all_goals exact absurd ha (by decide)

/-- Settles O25: the STATUS of an issue, and a countdown cycle keeps the result registers. -/
theorem oldValuesWhileBusy : Obligations.OldValuesWhileBusy := by
  intro s h hb
  obtain ⟨hok, hpos, hf⟩ := h.issued hb
  refine ⟨?_, fun p t hp hn hr hstep a ha => ?_⟩
  · exact (congrArg Status.word (Status.eq_issued hb hok hpos hf)).trans s.status.issued_word
  · rw [step_countdown hr hp hn] at hstep
    cases hstep
    obtain ⟨-, hR, hN, hQ, -⟩ := hostEdge_sameRegisters hb s.host.signals
    exact busRead_results hR hN hQ ha

/-! ### The operand registers (R28 to R34, R62) -/

/-- An operand write while idle replaces the operand registers and nothing else. -/
theorem State.writeOperands_idle {s : State} (h : s.status.busy = false) (o : Operands) :
    s.writeOperands o = { s with operands := o } := by simp [State.writeOperands, h]

/-- The operand registers after a write of the register `r` (R62, words 3 to 9). -/
def Operands.write (r : Reg) (v : Word) (o : Operands) : Operands :=
  match r with
  | .seqIn => { o with seqIn := v.extractLsb 26 0 }
  | .resMLo => { o with resMLo := v }
  | .resMHi => { o with resMHi := v }
  | .resE => { o with resE := v.extractLsb 15 0 }
  | .tolM => { o with tolM := v }
  | .optCtl => { o with optCtl := v.extractLsb 9 0 }
  | .tcrV => { o with tcrV := v }
  | _ => o

/-- The registers at the words 3 to 9 (R23). -/
def Reg.isOperand (r : Reg) : Bool := decide (3 ≤ r.addr.toNat ∧ r.addr.toNat ≤ 9)

/-- A host write of an operand register while idle (R62). -/
theorem busWrite_operand {s : State} (h : s.status.busy = false) {r : Reg} (hr : r.isOperand = true) (v : Word) :
    busWrite r.addr v s = { s with operands := s.operands.write r v } := by
  rw [busWrite, regAt_of_addr]
  cases r
  case seqIn | resMLo | resMHi | resE | tolM | optCtl | tcrV => exact State.writeOperands_idle h _
  all_goals exact absurd hr (by decide)

/-- The low `k` bits of a word, read as a register of `k` bits (R28, R30, R32). -/
theorem zeroExtend_extractLsb (v : Word) {k : Nat} (hk : k < 32) :
    (v.extractLsb k 0).zeroExtend 32 = v &&& BitVec.ofNat 32 (2 ^ (k + 1) - 1) := by
  apply BitVec.eq_of_toNat_eq
  have hle : 2 ^ (k + 1) ≤ 2 ^ 32 := Nat.pow_le_pow_right (by decide) hk
  have hmod : v.toNat % 2 ^ (k + 1) < 2 ^ (k + 1) := Nat.mod_lt _ (by positivity)
  have hmask : (2 ^ (k + 1) - 1) % 2 ^ 32 = 2 ^ (k + 1) - 1 := Nat.mod_eq_of_lt (by omega)
  rw [BitVec.toNat_and, BitVec.toNat_ofNat, hmask, Nat.and_two_pow_sub_one_eq_mod]
  show (BitVec.setWidth 32 (v.extractLsb k 0)).toNat = _
  rw [BitVec.toNat_setWidth, BitVec.extractLsb_toNat, Nat.shiftRight_zero, Nat.sub_zero]
  exact Nat.mod_eq_of_lt (by omega)

/-- The register written reads back, its reserved bits 0 (R28 to R34). -/
theorem readReg_write_same (s : State) {r : Reg} (hr : r.isOperand = true) (v : Word) :
    readReg { s with operands := s.operands.write r v } r =
      if r.addr = 3 then v &&& 0x07FFFFFF#32 else if r.addr = 6 then v &&& 0x0000FFFF#32
      else if r.addr = 8 then v &&& 0x000003FF#32 else v := by
  cases r
  case seqIn => exact zeroExtend_extractLsb v (k := 26) (by decide)
  case resE => exact zeroExtend_extractLsb v (k := 15) (by decide)
  case optCtl => exact zeroExtend_extractLsb v (k := 9) (by decide)
  case resMLo | resMHi | tolM | tcrV => rfl
  all_goals exact absurd hr (by decide)

/-- Another register reads as before (R62). -/
theorem readReg_write_other (s : State) {r q : Reg} (hq : q ≠ r) (v : Word) :
    readReg { s with operands := s.operands.write r v } q = readReg s q := by
  cases q
  case seqIn | resMLo | resMHi | resE | tolM | optCtl | tcrV =>
    cases r <;> simp [readReg, Operands.write] at hq ⊢
  all_goals rfl

/-- Settles O22: the write changes one operand register, and every other word of the port shows another. -/
theorem operandWriteThenRead : Obligations.OperandWriteThenRead := by
  intro s a v hb h3 h9
  obtain ⟨r, hr⟩ : ∃ r, regAt a = some r := Option.isSome_iff_exists.mp (by revert a; decide)
  obtain rfl := regAt_addr hr
  have hop : r.isOperand = true := decide_eq_true ⟨h3, h9⟩
  rw [busWrite_operand hb hop]
  refine ⟨?_, fun b hne => ?_⟩
  · rw [busRead, regAt_of_addr]
    exact readReg_write_same s hop v
  · unfold busRead
    cases hq : regAt b with
    | none => rfl
    | some q => exact readReg_write_other s (fun e => hne (by rw [← regAt_addr hq, e])) v

/-! ### The statements setres and seq (R90, R91) -/

theorem wordOf_lt {v : Nat} (h : v < 2 ^ 32) : wordOf v = some (BitVec.ofNat 32 v) := if_pos h

theorem encField_some {n : Nat} {x : Int} (h1 : -(2 ^ (n - 1) : Int) ≤ x) (h2 : x < (2 ^ (n - 1) : Int)) :
    encField n x = some (enc n x).toNat := if_pos ⟨h1, h2⟩

theorem encField_none {n : Nat} {x : Int} (h : x < -(2 ^ (n - 1) : Int) ∨ (2 ^ (n - 1) : Int) ≤ x) :
    encField n x = none := if_neg (by omega)

/-- The operand registers after the three writes of `setres`, made while idle. -/
theorem setres_writes {s : State} (hb : s.status.busy = false) (lo hi ex : Word) :
    (busWrite 6 ex (busWrite 5 hi (busWrite 4 lo s))).operands =
      ((s.operands.write .resMLo lo).write .resMHi hi).write .resE ex := by
  have e4 : busWrite 4 lo s = { s with operands := s.operands.write .resMLo lo } :=
    busWrite_operand hb (r := .resMLo) rfl lo
  have e5 := busWrite_operand (s := { s with operands := s.operands.write .resMLo lo }) hb (r := .resMHi) rfl hi
  have e6 := busWrite_operand
    (s := { s with operands := (s.operands.write .resMLo lo).write .resMHi hi }) hb (r := .resE) rfl ex
  rw [e4]
  exact (congrArg (fun t => (busWrite 6 ex t).operands) e5).trans (congrArg State.operands e6)

/-- Settles O7: the two halves of the coefficient make it up again, and a 16-bit encoding has its value. -/
theorem setresDeliversDecimal : Obligations.SetresDeliversDecimal := by
  intro M E
  refine ⟨fun hM h1 h2 => ?_, fun h => ?_⟩
  · refine ⟨BitVec.ofNat 32 (M % 2 ^ 32), BitVec.ofNat 32 (M / 2 ^ 32), BitVec.ofNat 32 (enc 16 E).toNat, ?_,
      fun s hb => ?_⟩
    · have hx : (enc 16 E).toNat < 2 ^ 32 := (enc 16 E).isLt.trans (by decide)
      simp only [Stmt.assemble, if_pos hM, wordOf_lt (Nat.mod_lt M (show 0 < 2 ^ 32 by decide)),
        wordOf_lt (show M / 2 ^ 32 < 2 ^ 32 by omega), encField_some (n := 16) h1 h2,
        Option.bind_eq_bind, Option.bind_some, wordOf_lt hx]
      rfl
    · simp only [setres_writes hb]
      refine ⟨?_, ?_⟩
      · show (BitVec.ofNat 32 (M / 2 ^ 32) ++ BitVec.ofNat 32 (M % 2 ^ 32)).toNat = M
        rw [BitVec.toNat_append, BitVec.toNat_ofNat, BitVec.toNat_ofNat, Nat.mod_mod,
          ← Nat.shiftLeft_add_eq_or_of_lt (Nat.mod_lt _ (by decide)), Nat.shiftLeft_eq]
        omega
      · show ((BitVec.ofNat 32 (enc 16 E).toNat).extractLsb 15 0).toInt = E
        have hex : (BitVec.ofNat 32 (enc 16 E).toNat).extractLsb 15 0 = enc 16 E := by
          apply BitVec.eq_of_toNat_eq
          have := (enc 16 E).isLt
          rw [BitVec.extractLsb_toNat, BitVec.toNat_ofNat, Nat.shiftRight_zero]
          omega
        rw [hex]
        exact BitVec.toInt_ofInt_eq_self (by decide) h1 h2
  · by_cases hM : M < 2 ^ 64
    · have hE := encField_none (n := 16) (x := E) (by omega)
      simp [Stmt.assemble, hE]
    · simp only [Stmt.assemble, if_neg hM]

/-- Symbol `i` of SEQ_IN is its nibble `i` (R28). -/
theorem Operands.seqSyms_getD (o : Operands) {i : Nat} (hi : i < 6) :
    o.seqSyms.getD i 0 = (o.seqIn.extractLsb' (4 * i) 4).toNat := by
  interval_cases i <;> rfl

/-- The value of `seq` is the length above the symbols as base-16 digits, the first the least (R91). -/
theorem seqValue_eq (len : Nat) (syms : List Nat) : seqValue len syms = len * 2 ^ 24 + Nat.ofDigits 16 syms := by
  have h16 : ∀ i c : Nat, c <<< (4 * i) = c * 16 ^ i := fun i c => by
    rw [Nat.shiftLeft_eq, Nat.pow_mul]
  simp only [seqValue, h16, Nat.shiftLeft_eq, Nat.ofDigits_eq_sum_mapIdx]

/-- A base-16 digit of a number given by its digits. -/
theorem ofDigits_digit {syms : List Nat} (h : ∀ c ∈ syms, c < 16) (i : Nat) :
    Nat.ofDigits 16 syms / 16 ^ i % 16 = syms.getD i 0 := by
  induction syms generalizing i with
  | nil => simp
  | cons c cs ih =>
    have hc : c < 16 := h c (by simp)
    rw [Nat.ofDigits_cons]
    cases i with
    | zero => simp; omega
    | succ i =>
      have hdiv : ((c : ℕ) + 16 * Nat.ofDigits 16 cs) / 16 = Nat.ofDigits 16 cs := by omega
      rw [pow_succ', ← Nat.div_div_eq_div_mul, hdiv]
      simpa using ih (fun d hd => h d (by simp [hd])) i

/-- Settles O8: the fields of SEQ_IN are the length and the base-16 digits. -/
theorem seqDeliversSequence : Obligations.SeqDeliversSequence := by
  intro syms hlen hsyms
  have hS : Nat.ofDigits 16 syms < 16 ^ 6 :=
    (Nat.ofDigits_lt_base_pow_length (by decide) hsyms).trans_le (Nat.pow_le_pow_right (by decide) hlen)
  have hv := seqValue_eq syms.length syms
  have hfit : codesFit syms = true := by simpa [codesFit, symFits] using hsyms
  refine ⟨BitVec.ofNat 32 (seqValue syms.length syms), ?_, fun s hb => ?_⟩
  · simp [Stmt.assemble, hlen, hfit, wordOf_lt (show seqValue syms.length syms < 2 ^ 32 by omega)]
  · have hw : (busWrite 3 (BitVec.ofNat 32 (seqValue syms.length syms)) s).operands.seqIn
        = (BitVec.ofNat 32 (seqValue syms.length syms)).extractLsb 26 0 :=
      congrArg (fun t => t.operands.seqIn) (busWrite_operand hb (r := .seqIn) rfl _)
    refine ⟨?_, fun i hi => ?_⟩
    · rw [Operands.seqLen, hw, BitVec.extractLsb_toNat, BitVec.extractLsb_toNat, BitVec.toNat_ofNat, hv,
        Nat.shiftRight_eq_div_pow, Nat.shiftRight_eq_div_pow]
      omega
    · rw [Operands.seqSyms_getD _ (by omega), hw, ← ofDigits_digit hsyms, BitVec.extractLsb'_toNat,
        BitVec.extractLsb_toNat, BitVec.toNat_ofNat, hv, Nat.shiftRight_eq_div_pow, Nat.shiftRight_eq_div_pow]
      have hi6 : i < 6 := by omega
      interval_cases i <;> omega

end Sys2Proof.Machine
end

section
/-! SUPPORT and proofs. The results of NOP, the lookup commands, CONSTRUCT and NORMALIZE, and what the SPEC views show. -/

namespace Sys2Proof.Machine

/-! ### The two commits, as record updates (R50) -/

/-- STATUS with the flag of one cause set (R240). -/
def Status.setFlag (c : Cause) (st : Status) : Status :=
  match c with
  | .eCmd => { st with eCmd := true }
  | .eCount => { st with eCount := true }
  | .eColor => { st with eColor := true }
  | .eTol => { st with eTol := true }
  | .eTcr => { st with eTcr := true }
  | .eNotrep => { st with eNotrep := true }
  | .eMisstol => { st with eMisstol := true }
  | .eNolayout => { st with eNolayout := true }
  | .eBounds => { st with eBounds := true }
  | .eNores => { st with eNores := true }
  | .eUndef => { st with eUndef := true }
  | .eBusywr => { st with eBusywr := true }

/-- A failure with one cause sets one flag. -/
theorem Status.setFlags_singleton (c : Cause) (st : Status) : st.setFlags [c] = st.setFlag c := by
  cases c <;> simp [Status.setFlags, Status.setFlag]

/-- A command whose outcome is an error of one cause (R50, R244). -/
theorem exec_of_err {i : Instr} {s : State} {c : Cause} {pos : Nat} {e : Effects}
    (h : outcomeOf i s = .err [c] pos e) :
    exec i s = .next { s with
      normOut := e.normOut.getD s.normOut
      qOut := e.qOut.getD s.qOut
      status := { s.status.setFlag c with errPos := BitVec.ofNat 3 pos, ok := false, busy := false }
      pend := none } := by
  rw [exec_eq, h, State.commit_err, State.raise, Status.failed, Status.setFlags_singleton]

/-- A command whose outcome is a success (R50). -/
theorem exec_of_ok {i : Instr} {s : State} {e : Effects} (h : outcomeOf i s = .ok e) :
    exec i s = .next { s with
      resistor := e.resistor.getD s.resistor
      normOut := e.normOut.getD s.normOut
      qOut := e.qOut.getD s.qOut
      status := { s.status with ok := true, busy := false }
      pend := none } := by
  rw [exec_eq, h]
  rfl

/-- Settles O38: NOP is the commit without effects. -/
theorem nopResult : Obligations.NopResult := fun _ => exec_of_ok (i := .nop) rfl

/-! ### The lookup commands (R120 to R125) -/

/-- Q_OUT of a found value, as a sum (R44). -/
theorem qFound_ofNat {n : Nat} (h : n < 2 ^ 16) : qFound (BitVec.ofNat 16 n) = 0x80000000#32 + BitVec.ofNat 32 n := by
  apply BitVec.eq_of_toNat_eq
  rw [qFound, BitVec.toNat_append, BitVec.toNat_ofNat, ← Nat.shiftLeft_add_eq_or_of_lt (Nat.mod_lt _ (by decide)),
    BitVec.toNat_add, BitVec.toNat_ofNat, BitVec.toNat_ofNat, show (1#1 ++ 0#15 : BitVec 16).toNat = 2 ^ 15 by decide,
    Nat.shiftLeft_eq]
  omega

/-- A lookup that finds `n` puts it into Q_OUT with Q_VALID. -/
theorem exec_lookup_found {i : Instr} {s : State} {n : Nat} (hn : n < 2 ^ 16)
    (h : outcomeOf i s = lookupOutcome (some (BitVec.ofNat 16 n))) :
    exec i s = .next { s with
      qOut := 0x80000000#32 + BitVec.ofNat 32 n
      status := { s.status with ok := true, busy := false }, pend := none } := by
  rw [exec_of_ok h, qFound_ofNat hn]
  rfl

/-- A lookup that finds nothing clears Q_OUT and sets E_UNDEF. -/
theorem exec_lookup_undef {i : Instr} {s : State} (h : outcomeOf i s = lookupOutcome none) :
    exec i s = .next { s with
      qOut := 0
      status := { s.status with eUndef := true, errPos := 0, ok := false, busy := false }, pend := none } :=
  exec_of_err h

/-- Settles O39, from the digit role of the Color Table. -/
theorem lutDigitResult : Obligations.LutDigitResult := by
  intro s sym
  refine ⟨fun h => exec_lookup_found (by omega) ?_, fun h => exec_lookup_undef ?_⟩
  · simp [outcomeOf, digit_eq, h, qUnsigned]
  · simp [outcomeOf, digit_eq, Nat.not_le.mpr h, qUnsigned]

/-- Settles O40, from the exponent role of the Color Table. -/
theorem lutDigexpResult : Obligations.LutDigexpResult := by
  intro s sym
  refine ⟨fun q h => ?_, fun h => exec_lookup_undef ?_⟩
  · rcases h with ⟨h, rfl⟩ | ⟨rfl, rfl⟩ | ⟨rfl, rfl⟩ | ⟨rfl, rfl⟩
    · refine exec_lookup_found (by omega) ?_
      simp [outcomeOf, digexp_eq, h, enc, BitVec.ofInt_natCast]
    · exact exec_lookup_found (by decide) rfl
    · exact exec_lookup_found (by decide) rfl
    · exact exec_lookup_found (by decide) rfl
  · simp [outcomeOf, digexp_eq, show ¬ sym ≤ 9 by omega, show ¬ sym ≤ 12 by omega]

/-- The tolerances of the ten tolerance-bearing symbols, in basis points (R101, R104). -/
theorem tolBp_of_mem {sym bp : Nat}
    (h : (sym, bp) ∈ [(1, 100), (2, 200), (3, 5), (4, 2), (5, 50), (6, 25), (7, 10), (8, 1), (10, 500), (11, 1000)]) :
    tolBp sym = some bp ∧ bp < 2 ^ 16 := by
  have key : ∀ p ∈ [(1, 100), (2, 200), (3, 5), (4, 2), (5, 50), (6, 25), (7, 10), (8, 1), (10, 500), (11, 1000)],
      tolBp p.1 = some p.2 ∧ p.2 < 2 ^ 16 := by decide
  exact key _ h

/-- The TCRs of Black to Grey, in ppm/K (R101, R105). -/
theorem tcr_of_mem {sym ppm : Nat}
    (h : (sym, ppm) ∈ [(0, 250), (1, 100), (2, 50), (3, 15), (4, 25), (5, 20), (6, 10), (7, 5), (8, 1)]) :
    tcr sym = some ppm ∧ ppm < 2 ^ 16 := by
  have key : ∀ p ∈ [(0, 250), (1, 100), (2, 50), (3, 15), (4, 25), (5, 20), (6, 10), (7, 5), (8, 1)],
      tcr p.1 = some p.2 ∧ p.2 < 2 ^ 16 := by decide
  exact key _ h

/-- Settles O41, from the tolerance role of the Color Table. -/
theorem lutTolResult : Obligations.LutTolResult := by
  intro s sym
  refine ⟨fun bp h => ?_, fun h => exec_lookup_undef ?_⟩
  · obtain ⟨ht, hlt⟩ := tolBp_of_mem h
    exact exec_lookup_found hlt (by simp [outcomeOf, ht, qUnsigned])
  · have ht : tolBp sym = none := by
      rw [← Option.not_isSome_iff_eq_none, tolBp_isSome_iff]
      simp only [SlotRole.admits]
      omega
    simp [outcomeOf, ht, qUnsigned]

/-- Settles O42, from the TCR role of the Color Table. -/
theorem lutTcrResult : Obligations.LutTcrResult := by
  intro s sym
  refine ⟨fun ppm h => ?_, fun h => exec_lookup_undef ?_⟩
  · obtain ⟨ht, hlt⟩ := tcr_of_mem h
    exact exec_lookup_found hlt (by simp [outcomeOf, ht, qUnsigned])
  · have ht : tcr sym = none := by
      rw [← Option.not_isSome_iff_eq_none, tcr_isSome_iff]
      simp only [SlotRole.admits]
      omega
    simp [outcomeOf, ht, qUnsigned]

/-- The symbols of the nine TCR values (R107). -/
theorem symOfTcr_of_mem {ppm sym : Nat}
    (h : (ppm, sym) ∈ [(250, 0), (100, 1), (50, 2), (15, 3), (25, 4), (20, 5), (10, 6), (5, 7), (1, 8)]) :
    symOfTcr ppm = some sym ∧ sym < 2 ^ 16 := by
  have key : ∀ p ∈ [(250, 0), (100, 1), (50, 2), (15, 3), (25, 4), (20, 5), (10, 6), (5, 7), (1, 8)],
      symOfTcr p.1 = some p.2 ∧ p.2 < 2 ^ 16 := by decide
  exact key _ h

/-- A TCR of the Color Table is one of the nine values (R101). -/
theorem tcr_mem {s v : Nat} (hs : s < 13) (h : tcr s = some v) : v ∈ [250, 100, 50, 15, 25, 20, 10, 5, 1] := by
  have key : ∀ s < 13, ∀ v ∈ tcr s, v ∈ [250, 100, 50, 15, 25, 20, 10, 5, 1] := by decide
  exact key s hs v h

/-- A tolerance of the Color Table is one of the ten values (R101). -/
theorem tolBp_mem {s b : Nat} (hs : s < 13) (h : tolBp s = some b) :
    b ∈ [1, 2, 5, 10, 25, 50, 100, 200, 500, 1000] := by
  have key : ∀ s < 13, ∀ b ∈ tolBp s, b ∈ [1, 2, 5, 10, 25, 50, 100, 200, 500, 1000] := by decide
  exact key s hs b h

/-- Settles O44: a value the table does not hold has no symbol. -/
theorem lutTcrinvResult : Obligations.LutTcrinvResult := by
  intro s
  refine ⟨fun ppm sym h hv => ?_, fun h => exec_lookup_undef ?_⟩
  · obtain ⟨ht, hlt⟩ := symOfTcr_of_mem h
    exact exec_lookup_found hlt (by simp [outcomeOf, Operands.tcrValue, hv, ht, qUnsigned])
  · have ht : symOfTcr s.snap.tcrV.toNat = none := by
      rw [Option.eq_none_iff_forall_ne_some]
      intro sym hsym
      obtain ⟨hs, ht⟩ := symOfTcr_some hsym
      exact h (tcr_mem hs ht)
    simp [outcomeOf, Operands.tcrValue, ht, qUnsigned]

/-! ### The tolerance operand as an exact percent value (R115) -/

/-- The symbols of the ten tolerances (R106). -/
theorem symOfTolBp_of_mem {bp sym : Nat}
    (h : (bp, sym) ∈ [(1, 8), (2, 4), (5, 3), (10, 7), (25, 6), (50, 5), (100, 1), (200, 2), (500, 10), (1000, 11)]) :
    symOfTolBp bp = some sym ∧ sym < 2 ^ 16 ∧ 1 ≤ bp ∧ bp ≤ 1000 := by
  have key : ∀ p ∈ [(1, 8), (2, 4), (5, 3), (10, 7), (25, 6), (50, 5), (100, 1), (200, 2), (500, 10), (1000, 11)],
      symOfTolBp p.1 = some p.2 ∧ p.2 < 2 ^ 16 ∧ 1 ≤ p.1 ∧ p.1 ≤ 1000 := by decide
  exact key _ h

/-- The basis points of a canonical decimal `(m, e)` in percent are `m × 10^(e + 2)`. -/
theorem decimalValue_basisPoints (m k : Nat) (E : Int) :
    decimalValue (m * 10 ^ k) E * 100 = (m : ℚ) * (10 : ℚ) ^ (E + (k : Int) + 2) := by
  have h10 : (10 : ℚ) ≠ 0 := by norm_num
  rw [decimalValue, zpow_add₀ h10, zpow_add₀ h10]
  push_cast
  norm_num
  ring

/-- An operand of exactly `b` basis points, 1 to 1000, has the symbol of `b` (R115). -/
theorem tolSym_of_value {M b : Nat} {E : Int} (hb1 : 1 ≤ b) (hb : b ≤ 1000)
    (h : decimalValue M E * 100 = (b : ℚ)) : tolSym M E = symOfTolBp b := by
  have hM : 1 ≤ M := by
    rcases Nat.eq_zero_or_pos M with rfl | hM
    · have : (b : ℚ) = 0 := by rw [← h]; simp [decimalValue]
      have : b = 0 := by exact_mod_cast this
      omega
    · exact hM
  obtain ⟨m, k, hc, hk, hm⟩ := canon_spec E hM
  rw [hk, decimalValue_basisPoints] at h
  have hlow : ¬ E + (k : Int) + 2 < 0 := by
    intro hneg
    obtain ⟨j, hj⟩ : ∃ j : Nat, E + (k : Int) + 2 = -((j : Int) + 1) := ⟨(-(E + (k : Int) + 2) - 1).toNat, by omega⟩
    have hval : (m : ℚ) = ((b * 10 ^ (j + 1) : ℕ) : ℚ) := by
      rw [hj, zpow_neg, ← div_eq_mul_inv, div_eq_iff (by positivity)] at h
      rw [h]
      push_cast
      norm_cast
    have : m = b * 10 ^ (j + 1) := by exact_mod_cast hval
    rw [pow_succ, ← mul_assoc] at this
    omega
  obtain ⟨j, hj⟩ : ∃ j : Nat, E + (k : Int) + 2 = (j : Int) := ⟨(E + (k : Int) + 2).toNat, by omega⟩
  have hmb : m * 10 ^ j = b := by
    rw [hj, zpow_natCast] at h
    exact_mod_cast h
  have hhigh : ¬ 4 < E + (k : Int) + 2 := by
    intro hgt
    have : 10 ^ 5 ≤ 10 ^ j := Nat.pow_le_pow_right (by decide) (by omega)
    have : 10 ^ 5 ≤ m * 10 ^ j := this.trans (Nat.le_mul_of_pos_left _ (by omega))
    omega
  simp only [tolSym, hc, if_neg hlow, if_neg hhigh]
  rw [hj, Int.toNat_natCast, hmb]

/-- An operand that names a symbol has exactly that symbol's tolerance (R115). -/
theorem value_of_tolSym {M s : Nat} {E : Int} (h : tolSym M E = some s) :
    ∃ b : ℕ, b ∈ [1, 2, 5, 10, 25, 50, 100, 200, 500, 1000] ∧ decimalValue M E * 100 = (b : ℚ) := by
  rcases Nat.eq_zero_or_pos M with rfl | hM
  · rw [tolSym, canon_zero] at h
    cases h
  · obtain ⟨m, k, hc, hk, -⟩ := canon_spec E hM
    simp only [tolSym, hc] at h
    split at h
    · cases h
    · split at h
      · cases h
      · obtain ⟨hs, ht⟩ := symOfTolBp_some h
        refine ⟨_, tolBp_mem hs ht, ?_⟩
        rw [hk, decimalValue_basisPoints, Nat.cast_mul, Nat.cast_pow, ← zpow_natCast, Int.toNat_of_nonneg (by omega)]
        norm_num

/-- Settles O43: the operand's symbol is the symbol of its exact value. -/
theorem lutTolinvResult : Obligations.LutTolinvResult := by
  intro s
  refine ⟨fun bp sym h hv => ?_, fun h => exec_lookup_undef ?_⟩
  · obtain ⟨ht, hlt, h1, h2⟩ := symOfTolBp_of_mem h
    have hsym : tolSym s.snap.tolCoeff s.snap.tolExp = some sym := (tolSym_of_value h1 h2 hv).trans ht
    exact exec_lookup_found hlt (by simp [outcomeOf, hsym, qUnsigned])
  · have hsym : tolSym s.snap.tolCoeff s.snap.tolExp = none := by
      rw [Option.eq_none_iff_forall_ne_some]
      intro sym hsym
      obtain ⟨b, hb, hv⟩ := value_of_tolSym hsym
      exact h b hb hv
    simp [outcomeOf, hsym, qUnsigned]

/-! ### CONSTRUCT and NORMALIZE -/

/-- The resistor CONSTRUCT makes of SEQ_IN: the nibbles below the length, 0 beyond it (R140). -/
theorem resistorOf_seqIn (o : Operands) (L : Nat) :
    resistorOf L o.seqSyms =
      { valid := true
        count := BitVec.ofNat 3 L
        bands := Vector.ofFn (fun i : Fin 6 => if i.val < L then o.seqIn.extractLsb' (4 * i.val) 4 else 0) } := by
  have hslot : ∀ i, i < 6 → slotOf L o.seqSyms i = if i < L then o.seqIn.extractLsb' (4 * i) 4 else 0 := fun i hi => by
    rw [slotOf, codeAt, Operands.seqSyms_getD o hi, BitVec.ofNat_toNat, BitVec.setWidth_eq]
  rw [resistorOf, Resistor.mk.injEq]
  refine ⟨rfl, rfl, Vector.ext fun i hi => ?_⟩
  rw [Vector.getElem_ofFn, ← hslot i hi]
  interval_cases i <;> rfl

/-- Settles O47, by the cases of the validating constructor. -/
theorem constructResult : Obligations.ConstructResult := by
  intro s len sym
  have hcode : ∀ i, i < 6 → codeAt s.snap.seqSyms i = (sym i).toNat := fun i hi => Operands.seqSyms_getD _ hi
  have hle : len ∈ [1, 3, 4, 5, 6] → len ≤ 6 := fun h => by simp at h; omega
  have hout : outcomeOf .construct s = constructOutcome len s.snap.seqSyms := rfl
  rcases constructOutcome_cases len s.snap.seqSyms with ⟨hL, h⟩ | ⟨hL, i, hi, hbad, hgood, h⟩ | ⟨hL, hall, h⟩
  · exact ⟨fun _ => exec_of_err (hout.trans h), fun h' => absurd h' hL, fun h' => absurd h' hL⟩
  · have h6 := hle hL
    refine ⟨fun h' => absurd hL h', fun _ j hj hjbad hjgood => ?_, fun _ hall => ?_⟩
    · have hij : i = j := by
        rcases Nat.lt_trichotomy i j with hlt | heq | hlt
        · rw [hcode i (by omega), hjgood i hlt] at hbad
          cases hbad
        · exact heq
        · have := hgood j hlt
          rw [hcode j (by omega), hjbad] at this
          cases this
      exact hij ▸ exec_of_err (hout.trans h)
    · rw [hcode i (by omega), hall i hi] at hbad
      cases hbad
  · have h6 := hle hL
    refine ⟨fun h' => absurd hL h', fun _ i hi hbad _ => ?_, fun _ _ => ?_⟩
    · have := hall i hi
      rw [hcode i (by omega), hbad] at this
      cases this
    · rw [exec_of_ok (hout.trans h), resistorOf_seqIn]
      rfl

/-- Settles O50: the fields of the normal form's word, within the bounds of a normal form. -/
theorem normalizeResult : Obligations.NormalizeResult := by
  intro s
  refine ⟨fun ds x h => ?_, fun h => ?_⟩
  · obtain ⟨-, hl3, hd, hx1, hx2⟩ := normalize_bounds h
    obtain ⟨f30, f23, f15, f13, f11, f7, f3⟩ := normWord_fields ds x
    have hout : outcomeOf .normalize s = .ok { normOut := some (normWord ds x) } := by
      rcases normalizeOutcome_cases s.snap with ⟨ds', x', hn, ho⟩ | ⟨hn, -⟩
      · cases hn.symm.trans h
        exact ho
      · cases hn.symm.trans h
    have hlen : (BitVec.ofNat 2 ds.length).toNat = ds.length := by
      rw [BitVec.toNat_ofNat]
      exact Nat.mod_eq_of_lt (by omega)
    refine ⟨normWord ds x, exec_of_ok hout, normWord_valid ds x, f30, f15, ?_⟩
    rw [f23, f13, f3, f7, f11]
    exact ⟨enc_toInt (by omega) (by omega), hlen, (normDigit_toNat hd 0).1, (normDigit_toNat hd 1).1,
      (normDigit_toNat hd 2).1⟩
  · rcases normalizeOutcome_cases s.snap with ⟨ds', x', hn, -⟩ | ⟨-, ho⟩
    · cases hn.symm.trans h
    · exact exec_of_err (i := .normalize) ho

end Sys2Proof.Machine
end

section
/-! SUPPORT and proofs. The decoded values of a legal resistor (R160 to R166) and the SPEC views that show them. -/

namespace Sys2Proof.Machine

/-! ### The roles of a legal resistor's bands (R110) -/

/-- A legal band has the role of its slot (R40, R110). -/
theorem Resistor.band_admits {r : Resistor} {n i : Nat} {role : SlotRole}
    (h : ∀ i, i < n → legal (r.band i) i n = true) (hi : i < n) (hrole : (slotRoles n)[i]? = some role) :
    role.admits (r.band i) := by
  obtain ⟨role', hr', hadm⟩ := (legal_iff _ _ _).mp (h i hi)
  cases hr'.symm.trans hrole
  exact hadm

theorem digit_of_le {s : Nat} (h : s ≤ 9) : digit s = some s := by rw [digit_eq, if_pos h]

theorem mantissa2_eq {a b : Nat} (ha : a ≤ 9) (hb : b ≤ 9) : mantissa2 a b = some (10 * a + b) := by
  simp [mantissa2, digit_of_le ha, digit_of_le hb]

theorem mantissa3_eq {a b c : Nat} (ha : a ≤ 9) (hb : b ≤ 9) (hc : c ≤ 9) :
    mantissa3 a b c = some (100 * a + 10 * b + c) := by
  simp [mantissa3, digit_of_le ha, digit_of_le hb, digit_of_le hc]

/-- Every exponent symbol has an exponent in [−3, 9] (R103). -/
theorem digexp_of_exponent {s : Nat} (h : SlotRole.exponent.admits s) : ∃ x, digexp s = some x ∧ -3 ≤ x ∧ x ≤ 9 := by
  have hs : s ≤ 12 := h
  rw [digexp_eq, if_pos hs]
  split <;> exact ⟨_, rfl, by omega, by omega⟩

/-- Every tolerance symbol has a tolerance of at most 1000 basis points (R104). -/
theorem tolBp_of_tolerance {s : Nat} (h : SlotRole.tolerance.admits s) : ∃ t, tolBp s = some t ∧ t ≤ 1000 := by
  obtain ⟨t, ht⟩ := Option.isSome_iff_exists.mp ((tolBp_isSome_iff s).mpr h)
  have hmem := tolBp_mem (SlotRole.admits_lt h) ht
  refine ⟨t, ht, ?_⟩
  simp at hmem
  omega

/-- Every TCR symbol has a TCR of at most 250 ppm/K (R105). -/
theorem tcr_of_tcr {s : Nat} (h : SlotRole.tcr.admits s) : ∃ p, tcr s = some p ∧ p ≤ 250 := by
  obtain ⟨p, hp⟩ := Option.isSome_iff_exists.mp ((tcr_isSome_iff s).mpr h)
  have hmem := tcr_mem (SlotRole.admits_lt h) hp
  refine ⟨p, hp, ?_⟩
  simp at hmem
  omega

/-! ### The decoded values (R161 to R165) -/

/-- The decoded values fit the fields of the SPEC views (R167). -/
structure Specs.Fits (p : Specs) : Prop where
  ohmM : p.ohmM ≤ 999
  ohmE : -3 ≤ p.ohmE ∧ p.ohmE ≤ 9
  tolBp : p.tolBp ≤ 2000
  tcr : p.tcr.getD 0 ≤ 250

/-- What the bands of a resistor decode to, by its count (R161 to R165). -/
structure Specs.DecodedFrom (p : Specs) (r : Resistor) : Prop where
  one : r.count.toNat = 1 → p.ohmM = 0 ∧ p.ohmE = 0
  twoDigits : r.count.toNat = 3 ∨ r.count.toNat = 4 →
    p.ohmM = 10 * r.band 0 + r.band 1 ∧ digexp (r.band 2) = some p.ohmE
  threeDigits : r.count.toNat = 5 ∨ r.count.toNat = 6 →
    p.ohmM = 100 * r.band 0 + 10 * r.band 1 + r.band 2 ∧ digexp (r.band 3) = some p.ohmE
  implicitTol : r.count.toNat = 1 ∨ r.count.toNat = 3 → p.tolBp = 2000
  tolFour : r.count.toNat = 4 → Machine.tolBp (r.band 3) = some p.tolBp
  tolFive : r.count.toNat = 5 ∨ r.count.toNat = 6 → Machine.tolBp (r.band 4) = some p.tolBp
  noTcr : r.count.toNat ≠ 6 → p.tcr = none
  tcr : r.count.toNat = 6 → p.tcr.isSome = true ∧ Machine.tcr (r.band 5) = p.tcr

/-- The resistance bands of 3 or 4 legal bands: two digits and an exponent (R162, R163). -/
theorem twoDigits_of_legal {r : Resistor} {n : Nat} (hn : n = 3 ∨ n = 4)
    (h : ∀ i, i < n → legal (r.band i) i n = true) :
    ∃ x, mantissa2 (r.band 0) (r.band 1) = some (10 * r.band 0 + r.band 1) ∧ 10 * r.band 0 + r.band 1 ≤ 999 ∧
      digexp (r.band 2) = some x ∧ -3 ≤ x ∧ x ≤ 9 := by
  obtain ⟨r0, r1, r2⟩ : (slotRoles n)[0]? = some .firstDigit ∧ (slotRoles n)[1]? = some .digit ∧
      (slotRoles n)[2]? = some .exponent := by rcases hn with rfl | rfl <;> decide
  have h0 := Resistor.band_admits h (by omega) r0
  have h1 := Resistor.band_admits h (by omega) r1
  have h2 := Resistor.band_admits h (by omega) r2
  obtain ⟨x, hx⟩ := digexp_of_exponent h2
  simp only [SlotRole.admits] at h0 h1
  exact ⟨x, mantissa2_eq h0.2 h1, by omega, hx⟩

/-- The resistance bands of 5 or 6 legal bands: three digits and an exponent, and a tolerance (R164, R165). -/
theorem threeDigits_of_legal {r : Resistor} {n : Nat} (hn : n = 5 ∨ n = 6)
    (h : ∀ i, i < n → legal (r.band i) i n = true) :
    ∃ x t, mantissa3 (r.band 0) (r.band 1) (r.band 2) = some (100 * r.band 0 + 10 * r.band 1 + r.band 2) ∧
      100 * r.band 0 + 10 * r.band 1 + r.band 2 ≤ 999 ∧ (digexp (r.band 3) = some x ∧ -3 ≤ x ∧ x ≤ 9) ∧
      tolBp (r.band 4) = some t ∧ t ≤ 1000 := by
  obtain ⟨r0, r1, r2, r3, r4⟩ : (slotRoles n)[0]? = some .firstDigit ∧ (slotRoles n)[1]? = some .digit ∧
      (slotRoles n)[2]? = some .digit ∧ (slotRoles n)[3]? = some .exponent ∧
      (slotRoles n)[4]? = some .tolerance := by rcases hn with rfl | rfl <;> decide
  have h0 := Resistor.band_admits h (by omega) r0
  have h1 := Resistor.band_admits h (by omega) r1
  have h2 := Resistor.band_admits h (by omega) r2
  have h3 := Resistor.band_admits h (by omega) r3
  have h4 := Resistor.band_admits h (by omega) r4
  obtain ⟨x, hx⟩ := digexp_of_exponent h3
  obtain ⟨t, ht⟩ := tolBp_of_tolerance h4
  simp only [SlotRole.admits] at h0 h1 h2
  exact ⟨x, t, mantissa3_eq h0.2 h1 h2, by omega, hx, ht⟩

/-- Every legal resistor decodes, band count by band count (R160). -/
theorem decodeByCount_of_legal {r : Resistor} (hc : r.count.toNat ∈ Config.bandCounts)
    (h : ∀ i, i < r.count.toNat → legal (r.band i) i r.count.toNat = true) :
    ∃ p, decodeByCount r = some p ∧ p.Fits ∧ p.DecodedFrom r := by
  have hcases : r.count.toNat = 1 ∨ r.count.toNat = 3 ∨ r.count.toNat = 4 ∨ r.count.toNat = 5 ∨ r.count.toNat = 6 := by
    simpa using hc
  rcases hcases with hn | hn | hn | hn | hn <;> rw [hn] at h
  · refine ⟨⟨0, 0, 2000, none⟩, by simp only [decodeByCount, hn], ⟨by decide, by decide, by decide, by decide⟩, ?_⟩
    constructor <;> simp [hn]
  · obtain ⟨x, hm, hm9, hx, hxr⟩ := twoDigits_of_legal (.inl rfl) h
    refine ⟨⟨_, x, 2000, none⟩, by simp [decodeByCount, hn, hm, hx], ⟨hm9, hxr, le_rfl, Nat.zero_le _⟩, ?_⟩
    constructor <;> simp [hn, hx]
  · obtain ⟨x, hm, hm9, hx, hxr⟩ := twoDigits_of_legal (.inr rfl) h
    obtain ⟨t, ht, htr⟩ := tolBp_of_tolerance (Resistor.band_admits h (i := 3) (by decide) rfl)
    refine ⟨⟨_, x, t, none⟩, by simp [decodeByCount, hn, hm, hx, ht],
      ⟨hm9, hxr, htr.trans (by decide), Nat.zero_le _⟩, ?_⟩
    constructor <;> simp [hn, hx, ht]
  · obtain ⟨x, t, hm, hm9, ⟨hx, hxr⟩, ht, htr⟩ := threeDigits_of_legal (.inl rfl) h
    refine ⟨⟨_, x, t, none⟩, by simp [decodeByCount, hn, hm, hx, ht],
      ⟨hm9, hxr, htr.trans (by decide), Nat.zero_le _⟩, ?_⟩
    constructor <;> simp [hn, hx, ht]
  · obtain ⟨x, t, hm, hm9, ⟨hx, hxr⟩, ht, htr⟩ := threeDigits_of_legal (.inr rfl) h
    obtain ⟨p, hp, hpr⟩ := tcr_of_tcr (Resistor.band_admits h (i := 5) (by decide) rfl)
    refine ⟨⟨_, x, t, some p⟩, by simp [decodeByCount, hn, hm, hx, ht, hp],
      ⟨hm9, hxr, htr.trans (by decide), hpr⟩, ?_⟩
    constructor <;> simp [hn, hx, ht, hp]

/-- Every legal resistor that is valid decodes, to values that fit the views (R160, R167). -/
theorem specs_of_legal {r : Resistor} (h : r.Legal) (hv : r.valid = true) :
    ∃ p, specs r = some p ∧ p.Fits ∧ p.DecodedFrom r := by
  rcases h with rfl | ⟨-, hc, hl, -⟩
  · cases hv
  · rw [specs, if_pos hv]
    exact decodeByCount_of_legal hc hl

/-! ### The views (R42, R166) -/

theorem toNat_ofNat_of_lt {n v : Nat} (h : v < 2 ^ n) : (BitVec.ofNat n v).toNat = v := by
  rw [BitVec.toNat_ofNat, Nat.mod_eq_of_lt h]

theorem Specs.Fits.minM_lt {p : Specs} (h : p.Fits) : p.minM < 2 ^ 24 := by
  have := Nat.mul_le_mul h.ohmM (Nat.sub_le 10000 p.tolBp)
  rw [Specs.minM]
  omega

theorem Specs.Fits.maxM_lt {p : Specs} (h : p.Fits) : p.maxM < 2 ^ 24 := by
  have := Nat.mul_le_mul h.ohmM (Nat.add_le_add_left h.tolBp 10000)
  rw [Specs.maxM]
  omega

/-- Settles O58: each view holds its decoded value, which fits its field. -/
theorem specViewsDecodeR : Obligations.SpecViewsDecodeR := by
  intro s
  refine ⟨fun hv => ?_, fun h hv => ?_⟩
  · have hnone := specs_invalid hv
    exact ⟨specView_none _ hnone, specView_none _ hnone, specView_none _ hnone, specView_none _ hnone⟩
  · obtain ⟨p, hp, hfit, hdec⟩ := specs_of_legal h hv
    obtain ⟨o31, o30, o23, o15, o9⟩ := specOhmWord_fields p
    obtain ⟨t31, t30, t24, t23, t15, t11⟩ := specTolWord_fields p
    obtain ⟨min31, min23, max31, max23⟩ := specBoundWord_fields p
    have hE := hfit.ohmE
    have hM := hfit.ohmM
    have hT := hfit.tolBp
    have hC := hfit.tcr
    have hbound : (enc 8 p.boundE).toInt = p.ohmE - 4 := 
      enc_toInt (by rw [Specs.boundE]; omega) (by rw [Specs.boundE]; omega)
    refine ⟨p.ohmM, p.tolBp, p.ohmE, p.tcr, hdec.one, hdec.twoDigits, hdec.threeDigits, hdec.implicitTol, hdec.tolFour,
      hdec.tolFive, hdec.noTcr, hdec.tcr, ?_⟩
    rw [busRead_specOhm, busRead_specTol, busRead_specMin, busRead_specMax, specView_some _ hp, specView_some _ hp,
      specView_some _ hp, specView_some _ hp, o9, o23, t11, t23, min31, min23, max31, max23]
    exact ⟨toNat_ofNat_of_lt (by omega), enc_toInt (by omega) (by omega), o31, o15, o30, toNat_ofNat_of_lt (by omega),
      toNat_ofNat_of_lt (by omega), t24, t31, t15, t30, toNat_ofNat_of_lt hfit.minM_lt, hbound,
      toNat_ofNat_of_lt hfit.maxM_lt, hbound⟩

end Sys2Proof.Machine
end

section
/-! SUPPORT and proofs. One port cycle: a write dropped in the commit cycle, what the write does at each word, the
bytes of a bridge, and that a read shows the registers before the edge and leaves no trace but in the host. -/

namespace Sys2Proof.Machine

/-! ### A write dropped in the commit cycle (R63, R245, R274) -/

/-- While BUSY a write to CMD or an operand register is dropped (R63). -/
theorem busWrite_dropped {s : State} (hb : s.status.busy = true) {a : Addr} (ha : DroppableWord a) (v : Word) :
    busWrite a v s = s.dropWrite := by
  rcases busWrite_cases a v s with ⟨-, hna⟩ | ⟨-, -, e⟩ | ⟨hf, -⟩ | ⟨rfl, -⟩ | ⟨hf, -⟩
  · exact absurd ha hna
  · exact e
  · exact absurd (hb.symm.trans hf) nofun
  · exact absurd ha (by unfold DroppableWord; decide)
  · exact absurd (hb.symm.trans hf) nofun

/-- A commit and the drop of a write commute: no commit reads or clears E_BUSYWR. -/
theorem State.commit_dropWrite (o : CmdOutcome) (s : State) : s.dropWrite.commit o = (s.commit o).dropWrite := by
  cases o with
  | ok e => rfl
  | err cs pos e =>
    have hst : s.status.writeDropped.failed cs pos = (s.status.failed cs pos).writeDropped := by
      simp [Status.failed, Status.setFlags, Status.writeDropped]
    simp [State.raise, State.dropWrite, hst]

/-- Settles O19: the command commits its outcome on top of the dropped write, which is the drop on top of its commit. -/
theorem writeInCommitCycleIsDropped : Obligations.WriteInCommitCycleIsDropped := by
  intro s p i c h hp hn hd hc hr hw ha
  subst hc
  have hedge : hostEdge s.host.signals s =
      { s.dropWrite with host := s.host.advance (portRdata s.host.signals s), cycle := s.cycle + 1 } := by
    rw [hostEdge, portWrite, if_pos hw, busWrite_dropped (h.busy_of_pend hp) ha]
  have hout : outcomeOf i (hostEdge s.host.signals s) = outcomeOf i s := by
    rw [hedge]
    exact outcomeOf_congr rfl rfl i
  have hstep : step s = .next { (s.commit (outcomeOf i s)).dropWrite with
      host := s.host.advance (portRdata s.host.signals s), cycle := s.cycle + 1 } := by
    rw [step_commit hr hp hn.le, execWord_of_decode hd, exec_eq, hout, hedge, State.commit_withHost,
      State.commit_dropWrite]
  exact ⟨_, _, hstep, exec_eq i s, State.commit_operands _ s, State.commit_pend _ s, rfl, rfl, rfl, rfl⟩

/-! ### What a write does at each word (R62, R63) -/

/-- A write to CMD while idle is an issue (R50, R62). -/
theorem busWrite_cmd_idle {s : State} (hb : s.status.busy = false) (v : Word) : busWrite 1 v s = s.issue v := by
  show (if s.status.busy = true then s.dropWrite else s.issue v) = _
  simp [hb]

/-- A write to a word that is neither STATUS nor droppable has no effect (R23, R34). -/
theorem busWrite_ignored {a : Addr} (h2 : a ≠ 2) (ha : ¬ DroppableWord a) (v : Word) (s : State) :
    busWrite a v s = s := by
  rcases busWrite_cases a v s with ⟨e, -⟩ | ⟨-, hd, -⟩ | ⟨-, rfl, -⟩ | ⟨h, -⟩ | ⟨-, h3, h9, -⟩
  · exact e
  · exact absurd hd ha
  · exact absurd (.inl rfl) ha
  · exact absurd h h2
  · exact absurd (.inr ⟨h3, h9⟩) ha

/-- The new E_BUSYWR of a write to STATUS, as the case of bit 13 (R62). -/
theorem Status.written_eq_ite (v : Word) (st : Status) :
    st.written v = { st with eBusywr := if v.getLsbD 13 then false else st.eBusywr } := by
  unfold Status.written
  cases v.getLsbD 13 with
  | false => rw [Bool.not_false, Bool.and_true]; rfl
  | true => rw [Bool.not_true, Bool.and_false]; rfl

/-- Settles O21, word by word. -/
theorem busWriteMap : Obligations.BusWriteMap := by
  intro s a v
  refine ⟨fun hb ha => busWrite_dropped hb ha v, ?_, ?_, ?_, ?_, ?_, ?_, ?_, ?_, ?_,
    fun h2 ha => busWrite_ignored h2 ha v s⟩
  · rintro hb rfl
    exact ⟨latency v s, Nat.le_add_left _ _, busWrite_cmd_idle hb v⟩
  · rintro rfl
    exact congrArg (fun st => { s with status := st }) (s.status.written_eq_ite v)
  · rintro hb rfl
    exact busWrite_operand hb (r := .seqIn) rfl v
  · rintro hb rfl
    exact busWrite_operand hb (r := .resMLo) rfl v
  · rintro hb rfl
    exact busWrite_operand hb (r := .resMHi) rfl v
  · rintro hb rfl
    exact busWrite_operand hb (r := .resE) rfl v
  · rintro hb rfl
    exact busWrite_operand hb (r := .tolM) rfl v
  · rintro hb rfl
    exact busWrite_operand hb (r := .optCtl) rfl v
  · rintro hb rfl
    exact busWrite_operand hb (r := .tcrV) rfl v

/-! ### The byte bridge (R65) -/

/-- Byte `j` of word `a` is read at the byte offset `4a + j` (R65). -/
theorem bridgeByte_append (a : Addr) (j : BitVec 2) (s : State) :
    bridgeByte (a ++ j) s = (busRead a s).extractLsb' (8 * j.toNat) 8 := by
  have hword : (a ++ j).extractLsb 6 2 = a := BitVec.extractLsb'_append_eq_left
  have hbyte : (a ++ j).extractLsb 1 0 = j := BitVec.extractLsb'_append_eq_right
  rw [bridgeByte, hword, hbyte]

/-- A word is its four bytes, the highest first. -/
theorem word_eq_bytes (w : Word) :
    w = w.extractLsb' 24 8 ++ w.extractLsb' 16 8 ++ w.extractLsb' 8 8 ++ w.extractLsb' 0 8 := by
  have upper : w.extractLsb' 24 8 ++ w.extractLsb' 16 8 = w.extractLsb' 16 (8 + 8) :=
    BitVec.extractLsb'_append_extractLsb'_eq_extractLsb' rfl
  have rest : w.extractLsb' 16 (8 + 8) ++ w.extractLsb' 8 8 = w.extractLsb' 8 (8 + 8 + 8) :=
    BitVec.extractLsb'_append_extractLsb'_eq_extractLsb' rfl
  rw [upper, rest]
  exact (BitVec.extractLsb'_append_extractLsb' (w := 8 + 8 + 8) (len := 8) (x := w)).symm

/-- Settles O27: the four byte offsets of a word give its four bytes. -/
theorem bridgeIsLittleEndian : Obligations.BridgeIsLittleEndian := by
  intro s a
  rw [bridgeByte_append, bridgeByte_append, bridgeByte_append, bridgeByte_append]
  exact word_eq_bytes _

/-! ### Reads leave no trace but in the host (R61, R64) -/

/-- The host's access does not look at the host agent. -/
theorem portWrite_withHost (c : BusCycle) (s : State) (h : HostAgent) :
    portWrite c { s with host := h } = { portWrite c s with host := h } := by
  unfold portWrite
  split
  · exact busWrite_withHost _ _ s h
  · rfl

/-- The engine's side of an edge always answers, and neither looks at the host agent nor changes it. -/
theorem engineEdge_withHost (pend : Option Pending) (s : State) :
    ∃ t, engineEdge pend s = .next t ∧ t.host = s.host ∧
      ∀ h, engineEdge pend { s with host := h } = .next { t with host := h } := by
  cases pend with
  | none => exact ⟨s, rfl, rfl, fun _ => rfl⟩
  | some p =>
    by_cases hn : p.remaining ≤ 1
    · simp only [engineEdge, if_pos hn, execWord_eq_commit]
      refine ⟨_, rfl, State.commit_host _ s, fun h => ?_⟩
      have hout : wordOutcome p.word { s with host := h } = wordOutcome p.word s := wordOutcome_congr rfl rfl p.word
      rw [hout, State.commit_withHost _ s h s.cycle]
      cases wordOutcome p.word s <;> rfl
    · simp only [engineEdge, if_neg hn]
      exact ⟨_, rfl, rfl, fun _ => rfl⟩

/-- Two hosts whose accesses of this cycle write the same, without reset, leave the same engine: the steps differ in
the host agent alone, whatever either host reads. -/
theorem step_same_write {s : State} {h : HostAgent} (hr : s.host.signals.rst = false) (hr' : h.signals.rst = false)
    (hw : portWrite h.signals s = portWrite s.host.signals s) :
    ∃ t u, step s = .next t ∧ step { s with host := h } = .next u ∧
      t.host = s.host.advance (portRdata s.host.signals s) ∧ t = { u with host := t.host } := by
  obtain ⟨t, ht, hhost, hother⟩ := engineEdge_withHost s.pend (hostEdge s.host.signals s)
  have hedge : hostEdge h.signals { s with host := h } =
      { hostEdge s.host.signals s with host := h.advance (portRdata h.signals { s with host := h }) } := by
    rw [hostEdge, portWrite_withHost, hw, hostEdge]
  have hstep : step s = engineEdge s.pend (hostEdge s.host.signals s) := by simp [step, clockEdge, hr]
  have hstep' : step { s with host := h } = engineEdge s.pend (hostEdge h.signals { s with host := h }) := by
    simp [step, clockEdge, hr']
  rw [hedge, hother] at hstep'
  exact ⟨t, _, hstep.trans ht, hstep', hhost, rfl⟩

/-- Settles O17: the read is no part of the write, and with nothing pending the write is the whole edge. -/
theorem readBeforeWriteInOneCycle : Obligations.ReadBeforeWriteInOneCycle := by
  intro s a v h hs hh
  have hr : s.host.signals.rst = false := by rw [hs]
  obtain ⟨t, u, ht, hu, hhost, heq⟩ := step_same_write (s := s) (h := h) hr (by rw [hh]) (by rw [hs, hh]; rfl)
  refine ⟨t, u, ht, hu, by rw [hhost, hs]; rfl, heq, fun hp => ?_⟩
  rw [step_idle hr hp, hs] at ht
  cases ht
  rfl

/-- Settles O18: a read and an idle cycle write the same, which is nothing. -/
theorem readsHaveNoSideEffect : Obligations.ReadsHaveNoSideEffect := by
  intro s a v hs
  obtain ⟨t, u, ht, hu, hhost, heq⟩ :=
    step_same_write (s := s) (h := HostAgent.idle) (by rw [hs]) rfl (by rw [hs]; rfl)
  exact ⟨t, u, ht, hu, by rw [hhost, hs]; rfl, heq⟩

end Sys2Proof.Machine
end

section
/-! SUPPORT and proofs. The encoding: the fields of a command word as numbers, the rows of the opcode table as tests
of its bits, the round trips of decoder and encoder, and the illegal words. -/

namespace Sys2Proof

/-! ### The fields of a word as numbers (R80 to R84, R86) -/

/-- A field is a quotient and a remainder of the word's number. -/
theorem field_eq (hi lo : Nat) (w : Word) : field hi lo w = w.toNat / 2 ^ lo % 2 ^ (hi - lo + 1) := by
  rw [field, BitVec.extractLsb_toNat, Nat.shiftRight_eq_div_pow]

theorem opcodeField_eq (w : Word) : opcodeField w = w.toNat % 256 :=
  (field_eq 7 0 w).trans (by simp)

theorem symField_eq (w : Word) : symField w = w.toNat / 256 % 16 := field_eq 11 8 w

theorem posField_eq (w : Word) : posField w = w.toNat / 4096 % 8 := field_eq 14 12 w

theorem cntField_eq (w : Word) : cntField w = w.toNat / 65536 % 8 := field_eq 18 16 w

/-- A field holds the bits of `v` when it reads the number of `v`. -/
theorem extractLsb_eq_iff (w : Word) {hi lo : Nat} (v : BitVec (hi - lo + 1)) :
    w.extractLsb hi lo = v ↔ w.toNat / 2 ^ lo % 2 ^ (hi - lo + 1) = v.toNat := by
  rw [← field_eq, field, BitVec.toNat_inj]

/-- The bits from `lo` up are all 0 when the word is a number below `2 ^ lo`. -/
theorem highBits_eq_zero_iff (w : Word) {lo : Nat} (h : lo ≤ 31) :
    w.extractLsb 31 lo = 0 ↔ w.toNat < 2 ^ lo := by
  have hfit : w.toNat / 2 ^ lo < 2 ^ (31 - lo + 1) := by
    rw [Nat.div_lt_iff_lt_mul (by positivity), ← pow_add, show 31 - lo + 1 + lo = 32 by omega]
    exact w.isLt
  rw [extractLsb_eq_iff, Nat.mod_eq_of_lt hfit]
  exact Nat.div_eq_zero_iff_lt (by positivity)

/-- An opcode as a command word: 0 above the opcode byte (R80). -/
theorem opcodeWord_eq {op : Nat} (h : op < 256) : BitVec.ofNat 32 op = 0#24 ++ BitVec.ofNat 8 op := by
  rw [← BitVec.toNat_inj, BitVec.toNat_append]
  simp
  omega

theorem opcodeByte_iff (w : Word) {op : Nat} (h : op < 256) :
    w.extractLsb 7 0 = BitVec.ofNat 8 op ↔ w.toNat % 256 = op := by
  rw [extractLsb_eq_iff, BitVec.toNat_ofNat, Nat.mod_eq_of_lt h]
  simp

/-! ### A match of each format's mask: the opcode byte, and 0 in every must-be-zero bit (R81 to R84) -/

/-- Format N fixes every bit (R81). -/
theorem and_maskN (w : Word) : w &&& maskN = w := BitVec.and_allOnes

theorem matchN_iff (w : Word) {op : Nat} (h : op < 256) :
    w &&& maskN = BitVec.ofNat 32 op ↔ w.toNat % 256 = op ∧ w.toNat < 2 ^ 8 := by
  rw [and_maskN, ← BitVec.toNat_inj, BitVec.toNat_ofNat]
  omega

theorem matchS_iff (w : Word) {op : Nat} (h : op < 256) :
    w &&& maskS = BitVec.ofNat 32 op ↔ w.toNat % 256 = op ∧ w.toNat < 2 ^ 12 := by
  have hop : BitVec.ofNat 32 op = 0#20 ++ 0#4 ++ BitVec.ofNat 8 op := opcodeWord_eq h
  rw [hop, maskS_iff, opcodeByte_iff w h, and_comm]
  exact and_congr_right fun _ => highBits_eq_zero_iff w (by decide)

theorem matchW_iff (w : Word) {op : Nat} (h : op < 256) :
    w &&& maskW = BitVec.ofNat 32 op ↔ w.toNat % 256 = op ∧ w.toNat < 2 ^ 15 := by
  have hop : BitVec.ofNat 32 op = 0#17 ++ 0#3 ++ 0#4 ++ BitVec.ofNat 8 op := opcodeWord_eq h
  rw [hop, maskW_iff, opcodeByte_iff w h, and_comm]
  exact and_congr_right fun _ => highBits_eq_zero_iff w (by decide)

theorem matchM_iff (w : Word) {op : Nat} (h : op < 256) :
    w &&& maskM = BitVec.ofNat 32 op ↔ w.toNat % 256 = op ∧ w.toNat < 2 ^ 19 ∧ w.toNat / 32768 % 2 = 0 := by
  have hop : BitVec.ofNat 32 op = 0#13 ++ 0#3 ++ 0#1 ++ 0#3 ++ 0#4 ++ BitVec.ofNat 8 op := opcodeWord_eq h
  rw [hop, maskM_iff, opcodeByte_iff w h, ← and_assoc, and_comm]
  exact and_congr_right fun _ => and_congr (highBits_eq_zero_iff w (by decide)) (extractLsb_eq_iff w _)

/-! ### A match of each format with its fields: the encoded word, for operands that fit (R82 to R84, R90) -/

theorem matchS_fields_iff (w : Word) {op : Nat} (h : op < 256) (sym : Nat) :
    w &&& maskS = BitVec.ofNat 32 op ∧ symField w = sym ↔
      sym < 16 ∧ BitVec.ofNat 32 (op + (sym <<< 8)) = w := by
  rw [matchS_iff w h, symField_eq, ← BitVec.toNat_inj, BitVec.toNat_ofNat, Nat.shiftLeft_eq]
  omega

theorem matchW_fields_iff (w : Word) {op : Nat} (h : op < 256) (color pos : Nat) :
    w &&& maskW = BitVec.ofNat 32 op ∧ symField w = color ∧ posField w = pos ↔
      (color < 16 ∧ pos < 8) ∧ BitVec.ofNat 32 (op + (color <<< 8) + (pos <<< 12)) = w := by
  rw [matchW_iff w h, symField_eq, posField_eq, ← BitVec.toNat_inj, BitVec.toNat_ofNat, Nat.shiftLeft_eq,
    Nat.shiftLeft_eq]
  omega

theorem matchM_fields_iff (w : Word) {op : Nat} (h : op < 256) (sym pos cnt : Nat) :
    w &&& maskM = BitVec.ofNat 32 op ∧ symField w = sym ∧ posField w = pos ∧ cntField w = cnt ↔
      ((sym < 16 ∧ pos < 8) ∧ cnt < 8) ∧
        BitVec.ofNat 32 (op + (sym <<< 8) + (pos <<< 12) + (cnt <<< 16)) = w := by
  rw [matchM_iff w h, symField_eq, posField_eq, cntField_eq, ← BitVec.toNat_inj, BitVec.toNat_ofNat, Nat.shiftLeft_eq,
    Nat.shiftLeft_eq, Nat.shiftLeft_eq]
  omega

/-! ### The opcode byte selects the row (R85) -/

theorem OpRow.matchesWord_iff (row : OpRow) (w : Word) : row.matchesWord w = true ↔ w &&& row.mask = row.pattern :=
  beq_iff_eq

/-- Every mask fixes the whole opcode byte, and every pattern is an opcode of the table. -/
theorem opTable_opcodes : ∀ row ∈ opTable,
    row.mask &&& 0xFF#32 = 0xFF#32 ∧ row.pattern &&& 0xFF#32 = row.pattern ∧ opcodeListed row.pattern.toNat = true := by decide

/-- The pattern of a row that matches is the word's opcode byte. -/
theorem OpRow.pattern_of_matchesWord {row : OpRow} {w : Word} (hmem : row ∈ opTable)
    (h : row.matchesWord w = true) : row.pattern = w &&& 0xFF#32 := by
  obtain ⟨hmask, hpat, -⟩ := opTable_opcodes row hmem
  rw [row.matchesWord_iff] at h
  calc row.pattern = w &&& row.mask &&& 0xFF#32 := by rw [h, hpat]
    _ = w &&& 0xFF#32 := by rw [BitVec.and_assoc, hmask]

theorem opTable_patterns_nodup : (opTable.map OpRow.pattern).Nodup := by decide

/-- Two rows that match one word are the same row. -/
theorem OpRow.eq_of_matchesWord {r r' : OpRow} {w : Word} (hr : r ∈ opTable) (hr' : r' ∈ opTable)
    (h : r.matchesWord w = true) (h' : r'.matchesWord w = true) : r = r' :=
  List.inj_on_of_nodup_map opTable_patterns_nodup hr hr'
    ((pattern_of_matchesWord hr h).trans (pattern_of_matchesWord hr' h').symm)

/-- Settles O4: the rows that match are copies of one row, and the table lists no row twice. -/
theorem atMostOneRowMatches : Obligations.AtMostOneRowMatches := by
  intro w
  have hnodup : (opTable.filter (fun row => row.matchesWord w)).Nodup := (opTable_patterns_nodup.of_map _).filter _
  cases hhits : opTable.filter (fun row => row.matchesWord w) with
  | nil => exact Nat.zero_le 1
  | cons r rest =>
    have hmem : ∀ r' ∈ r :: rest, r' ∈ opTable ∧ r'.matchesWord w = true :=
      fun r' h => List.mem_filter.mp (hhits ▸ h)
    obtain ⟨hr, hm⟩ := hmem r List.mem_cons_self
    have hsame : ∀ r' ∈ r :: rest, r' = r := fun r' h' => by
      obtain ⟨hr', hm'⟩ := hmem r' h'
      exact OpRow.eq_of_matchesWord hr' hr hm' hm
    rw [hhits, List.eq_replicate_of_mem hsame] at hnodup
    exact List.nodup_replicate.mp hnodup

/-! ### The decoder by its rows -/

theorem mem_and_matchesWord_of_find? {row : OpRow} {w : Word}
    (h : opTable.find? (fun r => r.matchesWord w) = some row) : row ∈ opTable ∧ row.matchesWord w = true :=
  ⟨List.mem_of_find?_eq_some h, List.find?_some (p := fun r : OpRow => r.matchesWord w) h⟩

theorem no_match_of_find? {w : Word} (h : opTable.find? (fun r => r.matchesWord w) = none) :
    ¬ ∃ row ∈ opTable, row.matchesWord w = true := by
  rintro ⟨row, hrow, hmatch⟩
  exact List.find?_eq_none.mp h row hrow hmatch

/-- The decoder answers the command of whichever row matches (R85). -/
theorem decode_eq_ok_iff_row (w : Word) (i : Instr) :
    decode w = .ok i ↔ ∃ row ∈ opTable, row.matchesWord w = true ∧ row.build w = i := by
  unfold decode
  split
  case h_1 first hfind =>
    obtain ⟨hfirst, hmatch⟩ := mem_and_matchesWord_of_find? hfind
    constructor
    · exact fun h => ⟨first, hfirst, hmatch, Except.ok.inj h⟩
    · rintro ⟨row, hrow, hmatch', rfl⟩
      rw [OpRow.eq_of_matchesWord hfirst hrow hmatch hmatch']
  case h_2 hfind =>
    constructor
    · intro h; split_ifs at h
    · exact fun ⟨row, hrow, hmatch, _⟩ => absurd ⟨row, hrow, hmatch⟩ (no_match_of_find? hfind)

/-- The decoder refuses a word that no row matches, by whether its opcode is listed (R87). -/
theorem decode_eq_error_iff (w : Word) (e : DecodeError) :
    decode w = .error e ↔ (¬ ∃ row ∈ opTable, row.matchesWord w = true) ∧
      e = if opcodeListed (w.toNat % 256) then .mustBeZero (w.toNat % 256) else .unlistedOpcode (w.toNat % 256) := by
  unfold decode
  rw [← opcodeField_eq]
  split
  case h_1 first hfind =>
    have hsome : ∃ row ∈ opTable, row.matchesWord w = true := ⟨first, mem_and_matchesWord_of_find? hfind⟩
    simp [hsome]
  case h_2 hfind =>
    rw [and_iff_right (no_match_of_find? hfind)]
    split_ifs <;> rw [Except.error.injEq, eq_comm]

/-! ### The round trips (R80 to R86, R90) -/

/-- Decoder and encoder are inverse: a word decodes to the well-formed command that encodes to it, and to no other. -/
theorem decode_eq_ok_iff (w : Word) (i : Instr) : decode w = .ok i ↔ i.WellFormed = true ∧ encode i = w := by
  rw [decode_eq_ok_iff_row]
  simp only [opTable, List.exists_mem_cons_iff, List.not_mem_nil, false_and, exists_false, or_false,
    OpRow.matchesWord_iff, and_maskN]
  cases i <;> simp only [reduceCtorEq, and_false, false_or, or_false, and_true, true_and, Instr.WellFormed, encode,
    symFits, posFits, cntFits, Bool.and_eq_true, decide_eq_true_eq, Instr.withColor.injEq, Instr.lutDigit.injEq,
    Instr.lutDigexp.injEq, Instr.lutTol.injEq, Instr.lutTcr.injEq, Instr.lutMatrix.injEq]
  case withColor color pos => exact matchW_fields_iff w (by decide) color pos
  case lutMatrix sym pos cnt => exact matchM_fields_iff w (by decide) sym pos cnt
  case lutDigit sym | lutDigexp sym | lutTol sym | lutTcr sym => exact matchS_fields_iff w (by decide) sym
  all_goals exact eq_comm

/-- Settles O1. -/
theorem decodeOfEncode : Obligations.DecodeOfEncode := fun i hi => (decode_eq_ok_iff (encode i) i).mpr ⟨hi, rfl⟩

/-- Settles O2. -/
theorem encodeOfDecode : Obligations.EncodeOfDecode := fun w i => (decode_eq_ok_iff w i).mp

/-- Settles O5: each word is the encoding of its command. -/
theorem specWordsDecode : Obligations.SpecWordsDecode := by
  simp only [Obligations.SpecWordsDecode, decode_eq_ok_iff]
  decide

/-! ### The illegal words (R87, R232) -/

/-- The listed opcodes, by the formats N, S, W and M of their rows (R85). -/
theorem opcodeListed_iff (op : Nat) :
    opcodeListed op = true ↔
      (op = 0 ∨ op = 1 ∨ op = 2 ∨ op = 4 ∨ op = 0x14 ∨ op = 0x15) ∨
      (op = 0x10 ∨ op = 0x11 ∨ op = 0x12 ∨ op = 0x13) ∨ op = 3 ∨ op = 0x16 := by
  simp only [opcodeListed, Bool.or_eq_true, Bool.and_eq_true, decide_eq_true_eq]
  omega

theorem opcodeListed_eq_false_iff (op : Nat) :
    opcodeListed op = false ↔ (0x05 ≤ op ∧ op ≤ 0x0F) ∨ 0x17 ≤ op := by
  simp only [opcodeListed, Bool.or_eq_false_iff, Bool.and_eq_false_iff, decide_eq_false_iff_not]
  omega

/-- Some row matches exactly when the opcode is listed and the must-be-zero bits of its format are 0 (R81 to R85). -/
theorem someRowMatches_iff (w : Word) :
    (∃ row ∈ opTable, row.matchesWord w = true) ↔
      let op := w.toNat % 256
      ((op = 0 ∨ op = 1 ∨ op = 2 ∨ op = 4 ∨ op = 0x14 ∨ op = 0x15) ∧ w.toNat < 2 ^ 8) ∨
      ((op = 0x10 ∨ op = 0x11 ∨ op = 0x12 ∨ op = 0x13) ∧ w.toNat < 2 ^ 12) ∨
      (op = 3 ∧ w.toNat < 2 ^ 15) ∨
      (op = 0x16 ∧ w.toNat < 2 ^ 19 ∧ w.toNat / 32768 % 2 = 0) := by
  simp only [opTable, List.exists_mem_cons_iff, List.not_mem_nil, false_and, exists_false, or_false,
    OpRow.matchesWord_iff]
  simp (disch := decide) only [matchN_iff, matchS_iff, matchW_iff, matchM_iff, or_and_right]
  exact Iff.of_eq (by ac_rfl)

/-- A word that some row matches has a listed opcode. -/
theorem opcodeListed_of_matchesWord {row : OpRow} {w : Word} (hmem : row ∈ opTable) (h : row.matchesWord w = true) :
    opcodeListed (w.toNat % 256) = true := by
  obtain ⟨-, -, hlisted⟩ := opTable_opcodes row hmem
  rwa [OpRow.pattern_of_matchesWord hmem h, BitVec.toNat_and, BitVec.toNat_ofNat, Nat.mod_eq_of_lt (by decide),
    Nat.and_two_pow_sub_one_eq_mod _ 8] at hlisted

/-- A word with an unlisted opcode is refused as such, and no other word is. -/
theorem decode_eq_unlistedOpcode_iff (w : Word) :
    decode w = .error (.unlistedOpcode (w.toNat % 256)) ↔ opcodeListed (w.toNat % 256) = false := by
  rw [decode_eq_error_iff]
  cases hl : opcodeListed (w.toNat % 256) with
  | true => simp
  | false =>
    have hnone : ¬ ∃ row ∈ opTable, row.matchesWord w = true := by
      rintro ⟨row, hmem, hmatch⟩
      rw [opcodeListed_of_matchesWord hmem hmatch] at hl
      cases hl
    simp [hnone]

theorem getLsbD_15_iff (w : Word) : w.getLsbD 15 = true ↔ ¬ w.toNat / 32768 % 2 = 0 := by
  rw [← BitVec.testBit_toNat, Nat.testBit_eq_decide_div_mod_eq, decide_eq_true_eq]
  exact Nat.mod_two_ne_zero.symm

/-- A word with a listed opcode is refused when a must-be-zero bit of its format is 1, and no other word is. -/
theorem decode_eq_mustBeZero_iff (w : Word) :
    decode w = .error (.mustBeZero (w.toNat % 256)) ↔
      let op := w.toNat % 256
      ((op = 0 ∨ op = 1 ∨ op = 2 ∨ op = 4 ∨ op = 0x14 ∨ op = 0x15) ∧ w.extractLsb 31 8 ≠ 0) ∨
      ((op = 0x10 ∨ op = 0x11 ∨ op = 0x12 ∨ op = 0x13) ∧ w.extractLsb 31 12 ≠ 0) ∨
      (op = 3 ∧ w.extractLsb 31 15 ≠ 0) ∨
      (op = 0x16 ∧ (w.extractLsb 31 19 ≠ 0 ∨ w.getLsbD 15 = true)) := by
  have herror : decode w = .error (.mustBeZero (w.toNat % 256)) ↔
      opcodeListed (w.toNat % 256) = true ∧ ¬ ∃ row ∈ opTable, row.matchesWord w = true := by
    rw [decode_eq_error_iff]
    cases opcodeListed (w.toNat % 256) <;> simp
  simp (disch := decide) only [herror, someRowMatches_iff, opcodeListed_iff, ne_eq, highBits_eq_zero_iff,
    getLsbD_15_iff]
  generalize w.toNat % 256 = op
  by_cases hop : opcodeListed op = true <;> rw [opcodeListed_iff] at hop
  · rcases hop with (rfl | rfl | rfl | rfl | rfl | rfl) | (rfl | rfl | rfl | rfl) | rfl | rfl <;> simp
    omega
  · exact iff_of_false (fun h => hop h.1)
      fun h => hop (h.imp And.left (Or.imp And.left (Or.imp And.left And.left)))

end Sys2Proof

namespace Sys2Proof.Machine

/-- Executing a refused word commits E_CMD (R232). -/
theorem execWord_of_error {w : Word} {e : DecodeError} (h : decode w = .error e) (s : State) :
    execWord w s = .next { s with
      status := { s.status with eCmd := true, errPos := 0, ok := false, busy := false }
      pend := none } := by
  have hout : wordOutcome w s = .err [.eCmd] 0 {} := by rw [wordOutcome, h]
  rw [execWord_eq_commit, hout, State.commit_err, State.raise, Status.failed, Status.setFlags_singleton]
  rfl

/-- Settles O3: the two refusals by opcode and must-be-zero bits, no third one, and the commit of E_CMD. -/
theorem illegalWordsAreTheTwoKinds : Obligations.IllegalWordsAreTheTwoKinds := by
  intro w op
  refine ⟨(decode_eq_unlistedOpcode_iff w).trans (opcodeListed_eq_false_iff op), decode_eq_mustBeZero_iff w,
    fun e he => ?_, fun e => execWord_of_error⟩
  obtain ⟨-, rfl⟩ := (decode_eq_error_iff w e).mp he
  split_ifs
  · exact .inr rfl
  · exact .inl rfl

/-- Settles O6: the statement is the write of its word to CMD, when the command has one. -/
theorem commandStatementWritesCmd : Obligations.CommandStatementWritesCmd := by
  refine fun i => ⟨fun hi => ?_, fun hi => ?_⟩
  · simp only [Stmt.assemble, Cmd.wordOf, hi, if_true]
    rfl
  · simp [Stmt.assemble, Cmd.wordOf, hi]

/-- Settles O10: the commit cycle executes the refused word on top of a cycle without a write. -/
theorem stepOfIllegalWord : Obligations.StepOfIllegalWord := by
  intro s p e hp hn hr hw hd
  have hport : portWrite s.host.signals s = s := by simp [portWrite, hw]
  rw [step_commit hr hp hn, execWord_of_error hd, hostEdge, hport]
  rfl

/-- A step without reset leaves the host as its access of this cycle left it, whatever the engine does. -/
theorem step_host {s : State} (hr : s.host.signals.rst = false) :
    ∃ t, step s = .next t ∧ t.host = s.host.advance (portRdata s.host.signals s) := by
  obtain ⟨t, ht, hhost, -⟩ := engineEdge_withHost s.pend (hostEdge s.host.signals s)
  exact ⟨t, by simpa [step, clockEdge, hr] using ht, hhost⟩

/-- A `wait` that has read `v` stays in the program exactly when bit 0 of `v` is 1 (R91). -/
theorem HostAgent.advance_wait {h : HostAgent} {rest : List HostStep} (hp : h.program = .wait :: rest) (v : Word) :
    h.advance (some v) = { h with program := if v.getLsbD 0 then .wait :: rest else rest, rdata := some v } := by
  simp only [HostAgent.advance, hp, Option.getD_some]
  split_ifs <;> simp [← hp]

/-- Settles O20: the value read is STATUS, whose bit 0 is BUSY. -/
theorem waitPollsUntilIdle : Obligations.WaitPollsUntilIdle := by
  intro s rest hp
  have hsig : s.host.signals = BusCycle.read 2 := by rw [HostAgent.signals, hp]; rfl
  have hread : portRdata s.host.signals s = some s.status.word := by rw [hsig]; rfl
  obtain ⟨t, ht, hhost⟩ := step_host (s := s) (by rw [hsig]; rfl)
  rw [hread, HostAgent.advance_wait hp, Status.word_busy] at hhost
  refine ⟨t, ht, ?_⟩
  rw [hhost]
  exact ⟨rfl, rfl, fun hb => by simp [hb], fun hb => by simp [hb]⟩

end Sys2Proof.Machine
end

section
/-! SUPPORT and proofs. LUT_MATRIX (R126), and the Band Validity Matrix against the roles of the Color Table (R114). -/

namespace Sys2Proof.Machine

/-- At a slot of a layout, the legal symbols are those its role admits (R110, R111). -/
theorem legal_iff_admits {sym pos cnt : Nat} {role : SlotRole} (hslot : (slotRoles cnt)[pos]? = some role) :
    legal sym pos cnt = true ↔ role.admits sym := by
  simp [legal_iff, Admitted, hslot]

/-- Settles O45: the truth value LUT_MATRIX finds is the slot roles' relation. -/
theorem lutMatrixResult : Obligations.LutMatrixResult := by
  intro s sym pos cnt
  rw [← legal_iff]
  refine ⟨fun h => ?_, fun h => ?_⟩
  · exact exec_lookup_found (n := 1) (by decide) (by simp [outcomeOf, h])
  · exact exec_lookup_found (n := 0) (by decide) (by simp [outcomeOf, h])

/-- Every symbol a role admits has a value in that role of the Color Table (R114 (a)). -/
theorem tableValue_of_admits {role : SlotRole} {sym : Nat} (h : role.admits sym) :
    ((role = .firstDigit ∨ role = .digit) → (digit sym).isSome = true) ∧
      (role = .exponent → (digexp sym).isSome = true) ∧
      (role = .tolerance → (tolBp sym).isSome = true) ∧ (role = .tcr → (tcr sym).isSome = true) := by
  refine ⟨?_, ?_, ?_, ?_⟩
  · rintro (rfl | rfl)
    · have hle : sym ≤ 9 := h.2
      simp [digit_of_le hle]
    · have hle : sym ≤ 9 := h
      simp [digit_of_le hle]
  · rintro rfl
    obtain ⟨x, hx, -⟩ := digexp_of_exponent h
    simp [hx]
  · rintro rfl
    exact (tolBp_isSome_iff sym).mpr h
  · rintro rfl
    exact (tcr_isSome_iff sym).mpr h

/-- The symbol of a digit is the digit; 0 alone is no first digit (R109, R113, R114 (b)). -/
theorem symOfDigit_admits {d : Nat} (hd : d ≤ 9) :
    symOfDigit d = some d ∧ (SlotRole.firstDigit.admits d ↔ 1 ≤ d) ∧ SlotRole.digit.admits d :=
  ⟨if_pos hd, and_iff_left hd, hd⟩

/-- The symbol of a tolerance is a tolerance symbol (R106, R114 (d)). -/
theorem symOfTolBp_admits {b sym : Nat} (h : symOfTolBp b = some sym) : SlotRole.tolerance.admits sym := by
  obtain ⟨-, ht⟩ := symOfTolBp_some h
  exact (tolBp_isSome_iff sym).mp (by simp [ht])

/-- The symbol of a TCR is a TCR symbol (R107, R114 (d)). -/
theorem symOfTcr_admits {p sym : Nat} (h : symOfTcr p = some sym) : SlotRole.tcr.admits sym := by
  obtain ⟨-, ht⟩ := symOfTcr_some h
  exact (tcr_isSome_iff sym).mp (by simp [ht])

/-- Settles O46: with `legal` read as the slot's role, each clause is a fact about one role. -/
theorem matrixAgreesWithRoles : Obligations.MatrixAgreesWithRoles := by
  intro pos cnt role hslot
  simp only [legal_iff_admits hslot]
  refine ⟨fun sym h => tableValue_of_admits h, fun d hd => ?_, ?_, ?_, ?_⟩
  · obtain ⟨hsym, hfirst, hdigit⟩ := symOfDigit_admits hd
    refine ⟨d, hsym, ?_, ?_⟩
    · rintro rfl
      exact hfirst
    · rintro rfl
      exact hdigit
  · rintro rfl x hlow hhigh
    obtain ⟨sym, hsym, hle, -⟩ := symOfExp_some hlow hhigh
    exact ⟨sym, hsym, hle⟩
  · rintro rfl b sym h
    exact symOfTolBp_admits h
  · rintro rfl p sym h
    exact symOfTcr_admits h

end Sys2Proof.Machine
end

section
/-! SUPPORT and proofs. What R167 and R168 derive from the decoded values: their ranges, and the tolerance bounds
around the resistance as exact decimals. -/

namespace Sys2Proof.Machine

/-! ### The ranges of the decoded values (R167) -/

theorem Resistor.Legal.count_mem {r : Resistor} (h : r.Legal) (hv : r.valid = true) :
    r.count.toNat ∈ Config.bandCounts := by
  rcases h with rfl | ⟨-, hc, -⟩
  · cases hv
  · exact hc

/-- A decoded tolerance is the implicit one of 1 and 3 bands, or that of a band's symbol (R161 to R165). -/
theorem Specs.DecodedFrom.tolBp_cases {p : Specs} {r : Resistor} (h : p.DecodedFrom r)
    (hc : r.count.toNat ∈ Config.bandCounts) : p.tolBp = 2000 ∨ ∃ s, Machine.tolBp s = some p.tolBp := by
  have hcases : r.count.toNat = 1 ∨ r.count.toNat = 3 ∨ r.count.toNat = 4 ∨ r.count.toNat = 5 ∨ r.count.toNat = 6 := by
    simpa using hc
  rcases hcases with hn | hn | hn | hn | hn
  · exact .inl (h.implicitTol (.inl hn))
  · exact .inl (h.implicitTol (.inr hn))
  · exact .inr ⟨_, h.tolFour hn⟩
  · exact .inr ⟨_, h.tolFive (.inl hn)⟩
  · exact .inr ⟨_, h.tolFive (.inr hn)⟩

/-- The decoded tolerances are the ten of the Color Table and the implicit one (R101, R167). -/
theorem Specs.DecodedFrom.tolBp_mem_tolerances {p : Specs} {r : Resistor} (h : p.DecodedFrom r)
    (hc : r.count.toNat ∈ Config.bandCounts) : p.tolBp ∈ [1, 2, 5, 10, 25, 50, 100, 200, 500, 1000, 2000] := by
  rcases h.tolBp_cases hc with himplicit | ⟨s, hs⟩
  · simp [himplicit]
  · have hadm : SlotRole.tolerance.admits s := (tolBp_isSome_iff s).mp (by simp [hs])
    exact List.mem_append_left [2000] (tolBp_mem (SlotRole.admits_lt hadm) hs)

/-- The largest `min_m` of a tolerance that is not 0: that of 999 at 1 basis point. -/
theorem Specs.Fits.minM_le {p : Specs} (h : p.Fits) (ht : 1 ≤ p.tolBp) : p.minM ≤ 9989001 :=
  Nat.mul_le_mul h.ohmM (Nat.sub_le_sub_left ht 10000)

/-- The largest `max_m` is that of 999 at 2000 basis points. -/
theorem Specs.Fits.maxM_le {p : Specs} (h : p.Fits) : p.maxM ≤ 11988000 :=
  Nat.mul_le_mul h.ohmM (Nat.add_le_add_left h.tolBp 10000)

/-- Settles O59: the exponent of the bounds is 4 below that of the resistance. -/
theorem decodedValuesFit : Obligations.DecodedValuesFit := by
  intro r h hv
  obtain ⟨p, hp, hfit, hdec⟩ := specs_of_legal h hv
  have hmem := hdec.tolBp_mem_tolerances (h.count_mem hv)
  have hpos : 1 ≤ p.tolBp := by
    have key : ∀ t ∈ [1, 2, 5, 10, 25, 50, 100, 200, 500, 1000, 2000], 1 ≤ t := by decide
    exact key _ hmem
  obtain ⟨hElow, hEhigh⟩ := hfit.ohmE
  have hbound : p.boundE = p.ohmE - 4 := rfl
  exact ⟨p, hp, hfit.ohmM, hElow, hEhigh, hmem, hfit.tcr, hfit.minM_le hpos, hfit.maxM_le, hfit.maxM_lt,
    by omega, by omega⟩

/-! ### The bounds around the resistance (R166, R168) -/

@[simp] theorem decimalValue_zero (E : Int) : decimalValue 0 E = 0 := by simp [decimalValue]

theorem decimalValue_nonneg (M : Nat) (E : Int) : 0 ≤ decimalValue M E := by
  unfold decimalValue
  positivity

/-- Decimals of one exponent add by their coefficients. -/
theorem decimalValue_add (M N : Nat) (E : Int) :
    decimalValue (M + N) E = decimalValue M E + decimalValue N E := by
  simp only [decimalValue, Nat.cast_add, add_mul]

/-- A decimal spelled with `k` more trailing zeros. -/
theorem decimalValue_trailingZeros (M k : Nat) (E : Int) :
    decimalValue (M * 10 ^ k) (E - k) = decimalValue M E := by
  have h10 : (10 : ℚ) ≠ 0 := by norm_num
  rw [decimalValue, decimalValue, zpow_sub₀ h10, zpow_natCast]
  push_cast
  field_simp

/-- The resistance, spelled with the exponent of its bounds (R166). -/
theorem Specs.ohm_eq_boundE (p : Specs) :
    decimalValue p.ohmM p.ohmE = decimalValue (p.ohmM * 10000) p.boundE :=
  (decimalValue_trailingZeros p.ohmM 4 p.ohmE).symm

/-- The upper bound is the resistance plus its tolerance (R166). -/
theorem Specs.high_eq (p : Specs) :
    decimalValue p.maxM p.boundE = decimalValue p.ohmM p.ohmE + decimalValue (p.ohmM * p.tolBp) p.boundE := by
  rw [p.ohm_eq_boundE, ← decimalValue_add, ← Nat.mul_add]
  rfl

/-- The lower bound plus the tolerance is the resistance, for a tolerance of at most 100 percent (R166). -/
theorem Specs.low_add_eq {p : Specs} (ht : p.tolBp ≤ 10000) :
    decimalValue p.minM p.boundE + decimalValue (p.ohmM * p.tolBp) p.boundE = decimalValue p.ohmM p.ohmE := by
  rw [p.ohm_eq_boundE, ← decimalValue_add, Specs.minM, ← Nat.mul_add, Nat.sub_add_cancel ht]

/-- Without a coefficient the resistance and both bounds are 0 (R161, R166). -/
theorem Specs.values_eq_zero {p : Specs} (hm : p.ohmM = 0) :
    decimalValue p.minM p.boundE = 0 ∧ decimalValue p.ohmM p.ohmE = 0 ∧ decimalValue p.maxM p.boundE = 0 := by
  simp [Specs.minM, Specs.maxM, hm]

/-- Settles O60: both bounds lie one and the same tolerance, which is not negative, from the resistance. -/
theorem toleranceContainment : Obligations.ToleranceContainment := by
  intro r h hv
  obtain ⟨p, hp, hfit, hdec⟩ := specs_of_legal h hv
  have hhigh := p.high_eq
  have hlow := Specs.low_add_eq (hfit.tolBp.trans (by decide))
  have htol := decimalValue_nonneg (p.ohmM * p.tolBp) p.boundE
  refine ⟨p, hp, by linarith, by linarith, sub_eq_of_eq_add' hhigh, sub_eq_of_eq_add' hlow.symm, fun hone => ?_⟩
  have hcount : r.count.toNat = 1 := by rw [hone]; rfl
  obtain ⟨hm, -⟩ := hdec.one hcount
  exact Specs.values_eq_zero hm

end Sys2Proof.Machine
end

section
/-! SUPPORT and proofs. Normalisation (R183): its result on a canonical decimal, which is the closed form of R184, and
that a normal form denotes its input and nothing else decides it (R185). -/

namespace Sys2Proof.Machine

/-! ### The zeros R183 pads a canonical coefficient with -/

/-- How many zeros the normal form of the canonical decimal `(m, e)` adds to a coefficient of at most 3 digits: R184
takes them from the exponent. -/
def paddedZeros (m : Nat) (e : Int) : Nat :=
  if 100 ≤ m then 0 else if 10 ≤ m then (if 10 ≤ e then 1 else 0) else if 11 ≤ e then 2 else 1

theorem paddedZeros_one {m : Nat} (h : m < 10) (e : Int) : paddedZeros m e = if 11 ≤ e then 2 else 1 := by
  rw [paddedZeros, if_neg (by omega), if_neg (by omega)]

theorem paddedZeros_two {m : Nat} (h1 : 10 ≤ m) (h2 : m < 100) (e : Int) :
    paddedZeros m e = if 10 ≤ e then 1 else 0 := by
  rw [paddedZeros, if_neg (by omega), if_pos h1]

theorem paddedZeros_three {m : Nat} (h : 100 ≤ m) (e : Int) : paddedZeros m e = 0 := if_pos h

/-- With its zeros the coefficient has 2 or 3 digits (R185). -/
theorem padded_bounds {m : Nat} (h1 : 1 ≤ m) (h2 : m < 1000) (e : Int) :
    10 ≤ m * 10 ^ paddedZeros m e ∧ m * 10 ^ paddedZeros m e < 1000 := by
  unfold paddedZeros
  split_ifs <;> omega

/-- A whole number of 2 digits or more has all the zeros its normal form needs. -/
theorem paddedZeros_le {m n : Nat} (h : 10 ≤ m * 10 ^ n) : paddedZeros m n ≤ n := by
  rcases Nat.eq_zero_or_pos n with rfl | hn
  · have : 10 ≤ m := by simpa using h
    unfold paddedZeros
    split_ifs <;> omega
  · unfold paddedZeros
    split_ifs <;> omega

/-- More zeros make a coefficient no smaller. -/
theorem mul_pow_mono (m : Nat) {i j : Nat} (h : i ≤ j) : m * 10 ^ i ≤ m * 10 ^ j :=
  Nat.mul_le_mul_left m (Nat.pow_le_pow_right (by decide) h)

/-- A value of 1 or 2 significant digits gets 2 digits up to the two-digit limit, and 3 above it (R184 `big`). -/
theorem atMost_limit_iff {m : Nat} (h1 : 1 ≤ m) (h2 : m < 100) (e : Int) :
    decimalAtMost m e Config.twoDigitLimit = true ↔ m * 10 ^ paddedZeros m e < 100 := by
  rcases Int.lt_or_le e 0 with he | he
  · have hle : m ≤ Config.twoDigitLimit * 10 ^ (-e).toNat :=
      (show m ≤ 99 * 10 ^ 9 by omega).trans (Nat.le_mul_of_pos_right _ (by positivity))
    have hlt : m * 10 ^ paddedZeros m e < 100 := by
      unfold paddedZeros
      split_ifs <;> omega
    simp only [decimalAtMost, if_neg (Int.not_le.mpr he), hle, hlt, decide_true]
  · obtain ⟨n, rfl⟩ := Int.eq_ofNat_of_zero_le he
    simp only [decimalAtMost, if_pos he, Int.toNat_natCast, decide_eq_true_eq, Config.twoDigitLimit]
    rcases Nat.lt_or_ge m 10 with h10 | h10
    · rw [paddedZeros_one h10]
      split_ifs with hbig
      · have := mul_pow_mono m (show 11 ≤ n by omega)
        omega
      · have := mul_pow_mono m (show n ≤ 10 by omega)
        omega
    · rw [paddedZeros_two h10 h2]
      split_ifs with hbig
      · have := mul_pow_mono m (show 10 ≤ n by omega)
        omega
      · have := mul_pow_mono m (show n ≤ 9 by omega)
        omega

section Canonical

variable {m : Nat} (h1 : 1 ≤ m) (h2 : m < 1000) (hm : m % 10 ≠ 0) (e : Int)
include h1 h2 hm

/-- R183's compaction stops at the padded coefficient. -/
theorem mustCompact_padded :
    mustCompact (decimalAtMost m e Config.twoDigitLimit) (m * 10 ^ paddedZeros m e) = false := by
  have hlt := (padded_bounds h1 h2 e).2
  rw [Bool.eq_false_iff, Ne, mustCompact_iff]
  rintro (h | ⟨h100, hzero, hsmall⟩)
  · omega
  · by_cases h3 : 100 ≤ m
    · rw [paddedZeros_three h3, pow_zero, mul_one] at hzero
      exact hm hzero
    · have := (atMost_limit_iff h1 (by omega) e).mp hsmall
      omega

omit hm in
/-- R183's compaction goes on as long as there are more zeros than the padded coefficient has. -/
theorem mustCompact_beyond_padded {j : Nat} (hj : paddedZeros m e < j) :
    mustCompact (decimalAtMost m e Config.twoDigitLimit) (m * 10 ^ j) = true := by
  have hge := (padded_bounds h1 h2 e).1
  obtain ⟨i, rfl⟩ : ∃ i, j = paddedZeros m e + i + 1 := ⟨j - paddedZeros m e - 1, by omega⟩
  have hle := mul_pow_mono m (Nat.le_add_right (paddedZeros m e) i)
  rw [mustCompact_iff, pow_succ, ← mul_assoc]
  by_cases hbig : 100 ≤ m * 10 ^ paddedZeros m e
  · exact .inl (by omega)
  · have h100 : m < 100 := (Nat.le_mul_of_pos_right m (by positivity)).trans_lt (Nat.lt_of_not_le hbig)
    exact .inr ⟨by omega, by omega, (atMost_limit_iff h1 h100 e).mpr (by omega)⟩

omit h2 hm in
/-- R183's scaling and padding append the zeros of the normal form or more, and lower the exponent by as many. -/
theorem padSingle_stripPoint :
    ∃ d : Nat, padSingle (stripPoint m e).1 (stripPoint m e).2 =
      (m * 10 ^ (paddedZeros m e + d), e - (paddedZeros m e : Int) - d) := by
  rcases Int.lt_or_le e 0 with he | he
  · refine ⟨0, ?_⟩
    simp only [stripPoint, if_neg (Int.not_le.mpr he), padSingle]
    split_ifs with h10
    · rw [paddedZeros_one h10, if_neg (by omega)]
      simp [Nat.mul_comm]
    · have hpad : paddedZeros m e = 0 := by
        unfold paddedZeros
        split_ifs <;> omega
      simp [hpad]
  · obtain ⟨n, rfl⟩ := Int.eq_ofNat_of_zero_le he
    simp only [stripPoint, if_pos he, Int.toNat_natCast, padSingle]
    split_ifs with h10
    · obtain rfl : n = 0 := by
        by_contra hn
        have := mul_pow_mono m (show 1 ≤ n by omega)
        omega
      refine ⟨0, ?_⟩
      rw [pow_zero, mul_one] at h10 ⊢
      rw [paddedZeros_one h10, if_neg (by decide)]
      simp [Nat.mul_comm]
    · have hpad := paddedZeros_le (Nat.le_of_not_lt h10)
      refine ⟨n - paddedZeros m n, ?_⟩
      rw [Nat.add_sub_cancel' hpad, Nat.cast_sub hpad]
      simp

/-- What R183's scaling, padding and compaction make of a canonical decimal: the padded coefficient, and the exponent
less its zeros. -/
theorem compact_canonical {s : Nat} {x : Int} (h : padSingle (stripPoint m e).1 (stripPoint m e).2 = (s, x)) :
    compact (decimalAtMost m e Config.twoDigitLimit) s s x = (m * 10 ^ paddedZeros m e, e - paddedZeros m e) := by
  obtain ⟨d, hd⟩ := padSingle_stripPoint h1 e
  obtain ⟨rfl, rfl⟩ := Prod.mk.inj (h.symm.trans hd)
  rw [compact_pow _ m _ h1 d _ _ le_rfl (fun j hj _ => mustCompact_beyond_padded h1 h2 e hj)
    (mustCompact_padded h1 h2 hm e), sub_add_cancel]

end Canonical

/-- The normal form of a canonical decimal: its coefficient with its zeros, if the exponent is in range. -/
def canonicalNormalForm (m : Nat) (e : Int) : Option (List Nat × Int) :=
  if inExpRange (e - paddedZeros m e) then some (digitsOf (m * 10 ^ paddedZeros m e), e - paddedZeros m e) else none

/-- A canonical form is a spelling of the same number without trailing zeros (R12). -/
theorem canon_some {M m : Nat} {E e : Int} (hc : canon M E = some (m, e)) :
    ∃ k : Nat, M = m * 10 ^ k ∧ e = E + k ∧ m % 10 ≠ 0 := by
  rcases Nat.eq_zero_or_pos M with rfl | hM
  · cases hc
  · obtain ⟨m', k, hc', hk, hm⟩ := canon_spec E hM
    cases hc'.symm.trans hc
    exact ⟨k, hk, rfl, hm⟩

/-- R183 on a coefficient of at most 3 significant digits. -/
theorem normalize_of_canon {M m : Nat} {E e : Int} (hc : canon M E = some (m, e)) (h : m < 1000) :
    normalize M E = canonicalNormalForm m e := by
  obtain ⟨k, hk, rfl, hm⟩ := canon_some hc
  have h1 : 1 ≤ m := by omega
  have hn : ¬ 3 < ndigits m := Nat.not_lt.mpr ((ndigits_le_iff h1 3).mpr h)
  have hsmall : decimalAtMost M E Config.twoDigitLimit = decimalAtMost m (E + k) Config.twoDigitLimit := by
    rw [hk, decimalAtMost_shift]
  unfold normalize
  simp only [hc]
  rw [if_neg hn, hsmall]
  generalize hp : padSingle (stripPoint m (E + k)).1 (stripPoint m (E + k)).2 = p
  rw [compact_canonical h1 h hm (E + k) hp]
  rfl

/-- A coefficient of 1000 or more has more than 3 digits (R13). -/
theorem three_lt_ndigits {m : Nat} (h : 1000 ≤ m) : 3 < ndigits m :=
  Nat.lt_of_not_le fun hle => Nat.not_lt.mpr h ((ndigits_le_iff (by omega) 3).mp hle)

/-- R183 refuses more than 3 significant digits. -/
theorem normalize_of_canon_large {M m : Nat} {E e : Int} (hc : canon M E = some (m, e)) (h : 1000 ≤ m) :
    normalize M E = none := by
  unfold normalize
  simp only [hc]
  exact if_pos (three_lt_ndigits h)

/-! ### The closed form (R184) -/

/-- R184 on a canonical decimal of at most 3 digits is the padded coefficient, digit count by digit count. -/
theorem normalizeClosed_of_canon {M m : Nat} {E e : Int} (hc : canon M E = some (m, e)) (h1 : 1 ≤ m) (h2 : m < 1000) :
    normalizeClosed M E = canonicalNormalForm m e := by
  unfold normalizeClosed canonicalNormalForm
  simp only [hc]
  rcases Nat.lt_or_ge m 10 with h10 | h10
  · rw [ndigits_one h1 h10, paddedZeros_one h10]
    by_cases hbig : 11 ≤ e
    · have hd : digitsOf (m * 100) = [m, 0, 0] := by
        rw [digitsOf_three (by omega) (by omega)]
        simp only [List.cons.injEq, and_true]
        omega
      simp [hbig, hd]
    · have hd : digitsOf (m * 10) = [m, 0] := by
        rw [digitsOf_two (by omega) (by omega)]
        simp
      simp [hbig, hd]
  rcases Nat.lt_or_ge m 100 with h100 | h100
  · rw [ndigits_two h10 h100, paddedZeros_two h10 h100]
    by_cases hbig : 10 ≤ e
    · have hd : digitsOf (m * 10) = digitsOf m ++ [0] := by
        rw [digitsOf_two h10 h100, digitsOf_three (by omega) (by omega)]
        simp only [List.cons_append, List.nil_append, List.cons.injEq, and_true]
        omega
      simp [hbig, hd]
    · have hbig' : ¬ 11 ≤ e := by omega
      simp [hbig, hbig']
  · rw [ndigits_three h100 h2, paddedZeros_three h100]
    simp

/-- R184 refuses more than 3 significant digits. -/
theorem normalizeClosed_of_canon_large {M m : Nat} {E e : Int} (hc : canon M E = some (m, e)) (h : 1000 ≤ m) :
    normalizeClosed M E = none := by
  obtain ⟨k, hk⟩ : ∃ k, ndigits m = k + 4 := Nat.exists_eq_add_of_le' (three_lt_ndigits h)
  unfold normalizeClosed
  simp only [hc, hk]
  rfl

/-- Settles O51: on a canonical decimal both forms give the padded coefficient. -/
theorem closedFormAgrees : Obligations.ClosedFormAgrees := by
  intro M E
  cases hc : canon M E with
  | none => simp only [normalize, normalizeClosed, hc]
  | some me =>
    obtain ⟨m, e⟩ := me
    obtain ⟨-, -, -, hm⟩ := canon_some hc
    rcases Nat.lt_or_ge m 1000 with h | h
    · rw [normalize_of_canon hc h, normalizeClosed_of_canon hc (by omega) h]
    · rw [normalize_of_canon_large hc h, normalizeClosed_of_canon_large hc h]

/-! ### What a normal form denotes (R185) -/

theorem decimalValue_eq_zero_iff (M : Nat) (E : Int) : decimalValue M E = 0 ↔ M = 0 := by
  have h10 : (10 : ℚ) ^ E ≠ 0 := zpow_ne_zero E (by norm_num)
  rw [decimalValue, mul_eq_zero, or_iff_left h10, Nat.cast_eq_zero]

/-- The canonical form by cases (R12): none for zero, else a coefficient without trailing zeros of the same value. -/
theorem canon_cases (M : Nat) (E : Int) :
    (M = 0 ∧ canon M E = none) ∨
    ∃ m e, canon M E = some (m, e) ∧ m % 10 ≠ 0 ∧ decimalValue m e = decimalValue M E := by
  cases hc : canon M E with
  | none =>
    refine .inl ⟨?_, rfl⟩
    by_contra hM
    rw [canon, if_neg hM] at hc
    cases hc
  | some me =>
    obtain ⟨m, e⟩ := me
    obtain ⟨k, hk, he, hm⟩ := canon_some hc
    refine .inr ⟨m, e, rfl, hm, ?_⟩
    rw [hk, he, ← decimalValue_trailingZeros m k, add_sub_cancel_right]

/-- The digits of a number of 2 or 3 digits. -/
theorem digitsOf_cases {t : Nat} (h1 : 10 ≤ t) (h2 : t < 1000) :
    (∃ a b, digitsOf t = [a, b] ∧ 1 ≤ a ∧ a ≤ 9 ∧ b ≤ 9 ∧ 10 * a + b = t) ∨
      (∃ a b c, digitsOf t = [a, b, c] ∧ 1 ≤ a ∧ a ≤ 9 ∧ b ≤ 9 ∧ c ≤ 9 ∧ 100 * a + 10 * b + c = t) := by
  rcases Nat.lt_or_ge t 100 with h | h
  · exact .inl ⟨_, _, digitsOf_two h1 h, by omega, by omega, by omega, by omega⟩
  · exact .inr ⟨_, _, _, digitsOf_three h h2, by omega, by omega, by omega, by omega, by omega⟩

theorem digitsNumber_two (a b : Nat) : digitsNumber [a, b] = 10 * a + b := by simp [digitsNumber]

theorem digitsNumber_three (a b c : Nat) : digitsNumber [a, b, c] = 100 * a + 10 * b + c := by
  simp only [digitsNumber, List.foldl_cons, List.foldl_nil]
  omega

/-- A normal form by its digits (R183, R185): [0] for zero, else 2 or 3 digits that denote the input. -/
theorem normalize_digits {M : Nat} {E : Int} {ds : List Nat} {x : Int} (h : normalize M E = some (ds, x)) :
    (M = 0 ∧ ds = [0] ∧ x = 0) ∨
    (M ≠ 0 ∧
      ((∃ a b, ds = [a, b] ∧ 1 ≤ a ∧ a ≤ 9 ∧ b ≤ 9 ∧ decimalValue (10 * a + b) x = decimalValue M E) ∨
        (∃ a b c, ds = [a, b, c] ∧ 1 ≤ a ∧ a ≤ 9 ∧ b ≤ 9 ∧ c ≤ 9 ∧
          decimalValue (100 * a + 10 * b + c) x = decimalValue M E))) := by
  rcases canon_cases M E with ⟨rfl, -⟩ | ⟨m, e, hc, hm, hvalue⟩
  · cases h
    exact .inl ⟨rfl, rfl, rfl⟩
  · have hM : M ≠ 0 := by
      rintro rfl
      cases hc
    have h2 : m < 1000 := by
      by_contra hlarge
      cases (normalize_of_canon_large hc (Nat.le_of_not_lt hlarge)).symm.trans h
    have hform := (normalize_of_canon hc h2).symm.trans h
    have hpad := decimalValue_trailingZeros m (paddedZeros m e) e
    obtain ⟨hlow, hhigh⟩ := padded_bounds (by omega) h2 e
    rw [canonicalNormalForm] at hform
    split_ifs at hform
    cases hform
    refine .inr ⟨hM, ?_⟩
    rw [← hvalue, ← hpad]
    rcases digitsOf_cases hlow hhigh with ⟨a, b, hd, ha, ha', hb, ht⟩ | ⟨a, b, c, hd, ha, ha', hb, hc, ht⟩
    · exact .inl ⟨a, b, hd, ha, ha', hb, by rw [ht]⟩
    · exact .inr ⟨a, b, c, hd, ha, ha', hb, hc, by rw [ht]⟩

/-- Settles O52, from the digits of a normal form and its bounds. -/
theorem normalFormIsExact : Obligations.NormalFormIsExact := by
  intro M E ds x h
  obtain ⟨-, -, hdigits, hlow, hhigh⟩ := normalize_bounds h
  rcases normalize_digits h with ⟨rfl, rfl, rfl⟩ | ⟨hM, ⟨a, b, rfl, ha, -, -, hv⟩ | ⟨a, b, c, rfl, ha, -, -, -, hv⟩⟩
  · refine ⟨?_, hlow, hhigh, hdigits, .inl ⟨rfl, rfl, rfl⟩⟩
    exact (decimalValue_zero 0).trans (decimalValue_zero E).symm
  · refine ⟨?_, hlow, hhigh, hdigits, .inr ⟨hM, .inl rfl, Nat.one_le_iff_ne_zero.mp ha⟩⟩
    rw [digitsNumber_two, hv]
  · refine ⟨?_, hlow, hhigh, hdigits, .inr ⟨hM, .inr rfl, Nat.one_le_iff_ne_zero.mp ha⟩⟩
    rw [digitsNumber_three, hv]

/-! ### The normal form depends on the number alone (R12, R185) -/

/-- Decimals of one exponent that denote one number have one coefficient. -/
theorem decimalValue_injective (E : Int) {M N : Nat} (h : decimalValue M E = decimalValue N E) : M = N := by
  have h10 : (10 : ℚ) ^ E ≠ 0 := zpow_ne_zero E (by norm_num)
  exact_mod_cast mul_right_cancel₀ h10 h

/-- A decimal without trailing zeros has the largest exponent of all that denote its number. -/
theorem exponent_le_of_value_eq {m m' : Nat} {e e' : Int} (hm : m % 10 ≠ 0) (h : decimalValue m e = decimalValue m' e') :
    e' ≤ e := by
  by_contra hlt
  obtain ⟨k, hk⟩ : ∃ k : Nat, e = e' - ((k + 1 : Nat) : Int) := ⟨(e' - e - 1).toNat, by omega⟩
  rw [← decimalValue_trailingZeros m' (k + 1) e', hk] at h
  have heq := decimalValue_injective _ h
  rw [pow_succ, ← mul_assoc] at heq
  omega

/-- The canonical form depends on the number denoted alone (R12). -/
theorem canon_eq_of_value_eq {M M' : Nat} {E E' : Int} (h : decimalValue M E = decimalValue M' E') :
    canon M E = canon M' E' := by
  rcases canon_cases M E with ⟨rfl, hc⟩ | ⟨m, e, hc, hm, hv⟩ <;>
    rcases canon_cases M' E' with ⟨rfl, hc'⟩ | ⟨m', e', hc', hm', hv'⟩
  · rw [hc, hc']
  · have hzero : m' = 0 := (decimalValue_eq_zero_iff m' e').mp (hv'.trans (h.symm.trans (decimalValue_zero E)))
    omega
  · have hzero : m = 0 := (decimalValue_eq_zero_iff m e).mp (hv.trans (h.trans (decimalValue_zero E')))
    omega
  · have heq : decimalValue m e = decimalValue m' e' := hv.trans (h.trans hv'.symm)
    obtain rfl : e = e' := le_antisymm (exponent_le_of_value_eq hm' heq.symm) (exponent_le_of_value_eq hm heq)
    rw [hc, hc', decimalValue_injective e heq]

/-- Settles O53: normalisation reads the canonical form alone. -/
theorem normalFormIgnoresSpelling : Obligations.NormalFormIgnoresSpelling := by
  intro M M' E E' h
  rw [closedFormAgrees, closedFormAgrees, normalizeClosed, normalizeClosed, canon_eq_of_value_eq h]

end Sys2Proof.Machine
end

section
/-! SUPPORT and proofs. DETERMINE (R190): its operand checks, the rows of the selection table as a relation, that every
row's sequence is legal (R192) and decodes to the input (R193), and what DETERMINE and NORMALIZE read (R180, R186). -/

namespace Sys2Proof.Machine

/-! ### The operand checks (R181, R182) -/

/-- A check fails exactly when its operand is present and names no symbol. -/
theorem Checked.ite_eq_invalid_iff (present : Bool) (sym : Option Nat) :
    (if present then Checked.ofSym sym else .absent) = .invalid ↔ (present && sym.isNone) = true := by
  cases present
  · simp
  · cases sym <;> simp [Checked.ofSym]

/-- A check passes with the symbol its operand names, or with none for an absent operand. -/
theorem Checked.ite_passes_iff (present : Bool) (sym T : Option Nat) :
    ((present = false ∧ T = none) ∨ (present = true ∧ T.isSome = true ∧ sym = T)) ↔
      (if present then Checked.ofSym sym else .absent) ≠ .invalid ∧
        (if present then Checked.ofSym sym else .absent : Checked).sym = T := by
  cases present with
  | false =>
    constructor
    · rintro (⟨-, rfl⟩ | ⟨⟨⟩, -⟩)
      exact ⟨nofun, rfl⟩
    · rintro ⟨-, rfl⟩
      exact .inl ⟨rfl, rfl⟩
  | true =>
    cases sym with
    | none =>
      constructor
      · rintro (⟨⟨⟩, -⟩ | ⟨-, hT, rfl⟩)
        cases hT
      · rintro ⟨h, -⟩
        exact absurd rfl h
    | some v =>
      constructor
      · rintro (⟨⟨⟩, -⟩ | ⟨-, -, hT⟩)
        exact ⟨nofun, hT⟩
      · rintro ⟨-, rfl⟩
        exact .inr ⟨rfl, rfl, rfl⟩

theorem checkTol_eq_invalid_iff (o : Operands) :
    checkTol o = .invalid ↔ (o.tolPresent && (tolSym o.tolCoeff o.tolExp).isNone) = true :=
  Checked.ite_eq_invalid_iff _ _

theorem checkTcr_eq_invalid_iff (o : Operands) :
    checkTcr o = .invalid ↔ (o.tcrPresent && (symOfTcr o.tcrValue).isNone) = true :=
  Checked.ite_eq_invalid_iff _ _

theorem tolIs_iff (o : Operands) (T : Option Nat) : o.TolIs T ↔ checkTol o ≠ .invalid ∧ (checkTol o).sym = T :=
  Checked.ite_passes_iff _ _ _

theorem tcrIs_iff (o : Operands) (C : Option Nat) : o.TcrIs C ↔ checkTcr o ≠ .invalid ∧ (checkTcr o).sym = C :=
  Checked.ite_passes_iff _ _ _

/-- A tolerance operand names tolerance symbols only (R114 (d), R115). -/
theorem Operands.TolIs.admits {o : Operands} {t : Nat} (h : o.TolIs (some t)) : SlotRole.tolerance.admits t := by
  rcases h with ⟨-, ⟨⟩⟩ | ⟨-, -, h⟩
  unfold tolSym at h
  split at h
  · cases h
  · split_ifs at h
    exact symOfTolBp_admits h

/-- A TCR operand names TCR symbols only (R114 (d)). -/
theorem Operands.TcrIs.admits {o : Operands} {c : Nat} (h : o.TcrIs (some c)) : SlotRole.tcr.admits c := by
  rcases h with ⟨-, ⟨⟩⟩ | ⟨-, -, h⟩
  exact symOfTcr_admits h

/-! ### What DETERMINE and NORMALIZE read (R180, R186) -/

/-- The outcome of DETERMINE does not depend on the value registers of absent operands (R180). -/
theorem determineOutcome_congr {o o' : Operands} (h : o.SameForDetermine o') : determineOutcome o = determineOutcome o' := by
  obtain ⟨hm, he, htp, hcp, htol, htcr⟩ := h
  have hcoeff : o.resCoeff = o'.resCoeff := congrArg BitVec.toNat hm
  have hexp : o.resExp = o'.resExp := congrArg BitVec.toInt he
  have ht : checkTol o = checkTol o' := by
    unfold checkTol
    rw [← htp]
    split_ifs with hp
    · obtain ⟨hM, hE⟩ := htol hp
      rw [hE, Operands.tolCoeff, Operands.tolCoeff, hM]
    · rfl
  have hc : checkTcr o = checkTcr o' := by
    unfold checkTcr
    rw [← hcp]
    split_ifs with hp
    · rw [Operands.tcrValue, Operands.tcrValue, htcr hp]
    · rfl
  simp only [determineOutcome, hcoeff, hexp, ht, hc]

/-- Settles O57: each command commits the outcome of the operands it reads. -/
theorem absentOperandsAreNotRead : Obligations.AbsentOperandsAreNotRead := by
  intro s s'
  refine ⟨fun h => ⟨determineOutcome s.snap, exec_eq .determine s, ?_⟩,
    fun hm he => ⟨normalizeOutcome s.snap, exec_eq .normalize s, ?_⟩⟩
  · rw [determineOutcome_congr h]
    exact exec_eq .determine s'
  · have hcoeff : s.snap.resCoeff = s'.snap.resCoeff := congrArg BitVec.toNat hm
    have hexp : s.snap.resExp = s'.snap.resExp := congrArg BitVec.toInt he
    rw [normalizeOutcome, hcoeff, hexp]
    exact exec_eq .normalize s'

/-! ### Failures of the checks and of the normalisation (R190, R191) -/

theorem contains_ite_singleton (p : Prop) [Decidable p] (a c : Cause) :
    (if p then [a] else []).contains c = (decide p && decide (c = a)) := by
  by_cases h : p <;> simp [h]

/-- A commit of the failures of steps 1 and 2 sets the flag of each of them, and no other. -/
theorem Status.failed_stepErrors (st : Status) (tol tcr : Checked) (norm : Option (List Nat × Int)) :
    st.failed (stepErrors tol tcr norm) 0 =
      { st with
        eTol := st.eTol || decide (tol = .invalid), eTcr := st.eTcr || decide (tcr = .invalid)
        eNotrep := st.eNotrep || decide (norm = none), errPos := 0, ok := false, busy := false } := by
  have hflags : ∀ c : Cause, (stepErrors tol tcr norm).contains c =
      (decide (tol = .invalid) && decide (c = .eTol) || decide (tcr = .invalid) && decide (c = .eTcr)
        || decide (norm = none) && decide (c = .eNotrep)) := fun c => by
    simp only [stepErrors, List.contains_append, contains_ite_singleton]
  simp only [Status.failed, Status.setFlags, hflags]
  simp

/-- Settles O54: the flags of a failing DETERMINE are those of its failing checks. -/
theorem determineReportsEveryFailure : Obligations.DetermineReportsEveryFailure := by
  intro s tolBad tcrBad resBad hbad
  have htol : decide (checkTol s.snap = .invalid) = tolBad := by
    rw [Bool.eq_iff_iff, decide_eq_true_iff]
    exact checkTol_eq_invalid_iff _
  have htcr : decide (checkTcr s.snap = .invalid) = tcrBad := by
    rw [Bool.eq_iff_iff, decide_eq_true_iff]
    exact checkTcr_eq_invalid_iff _
  have hres : decide (normalize s.snap.resCoeff s.snap.resExp = none) = resBad := by
    rw [Bool.eq_iff_iff, decide_eq_true_iff]
    exact Option.isNone_iff_eq_none.symm
  rcases determineOutcome_cases s.snap with ⟨-, h⟩ | ⟨ds, x, hn, ht, hc, -⟩
  · have hout : outcomeOf .determine s = _ := h
    rw [exec_eq, hout, State.commit_err, State.raise, Status.failed_stepErrors, htol, htcr, hres]
    rfl
  · rw [← htol, ← htcr, ← hres] at hbad
    simp [ht, hc, hn] at hbad

/-! ### The selection table (R187 to R189) -/

theorem allSome_map_some (seq : List Nat) : allSome (seq.map some) = some seq := by
  induction seq with
  | nil => rfl
  | cons a seq ih => simp [allSome, ih]

theorem allSome_of_none (front : List Nat) (back : List (Option Nat)) :
    allSome (front.map some ++ none :: back) = none := by
  induction front with
  | nil => rfl
  | cons a front ih => simp [allSome, ih]

/-- A row whose exponent has no symbol fails with E_NOTREP (R188). -/
theorem layout_none (front back : List Nat) :
    layout (front.map some ++ none :: back.map some) = .error .eNotrep := by
  rw [layout, allSome_of_none]

/-- A row gives its sequence exactly when its exponent has a symbol (R187). -/
theorem layout_eq_ok_iff {front back seq : List Nat} {exponent : Option Nat} :
    layout (front.map some ++ exponent :: back.map some) = .ok seq ↔
      ∃ e, exponent = some e ∧ front ++ e :: back = seq := by
  cases exponent with
  | none => simp [layout_none]
  | some e =>
    have hmap : front.map some ++ some e :: back.map some = (front ++ e :: back).map some := by simp
    rw [hmap, layout, allSome_map_some]
    simp

theorem symOfDigit_of_le {d : Nat} (h : d ≤ 9) : symOfDigit d = some d := if_pos h

/-- The rows of R187 with an exponent band: for the digits, exponent, tolerance symbol and TCR symbol of the operands, the
digits of the bands, the exponent they are written with, and the symbols after the exponent band. -/
inductive SelectRow : List Nat → Int → Option Nat → Option Nat → List Nat → Int → List Nat → Prop
  | three {a b : Nat} {x : Int} : SelectRow [a, b] x none none [a, b] x []
  | four {a b t : Nat} {x : Int} : SelectRow [a, b] x (some t) none [a, b] x [t]
  | sixOfTwo {a b t c : Nat} {x : Int} : SelectRow [a, b] x (some t) (some c) [a, b, 0] (x - 1) [t, c]
  | five {a b d t : Nat} {x : Int} : SelectRow [a, b, d] x (some t) none [a, b, d] x [t]
  | six {a b d t c : Nat} {x : Int} : SelectRow [a, b, d] x (some t) (some c) [a, b, d] x [t, c]

/-- What `select` can do (R187, R189): the 1-band row, a row with an exponent band, or an error. -/
theorem select_cases (ds : List Nat) (x : Int) (t c : Option Nat) :
    (ds = [0] ∧ x = 0 ∧ select ds x t c = .ok [0]) ∨ (∃ front y back, SelectRow ds x t c front y back) ∨
      ∃ cause, select ds x t c = .error cause := by
  unfold select
  split
  case h_1 d =>
    split_ifs with h0
    · exact .inl ⟨by rw [h0.1], h0.2, rfl⟩
    · exact .inr (.inr ⟨_, rfl⟩)
  case h_2 => exact .inr (.inl ⟨_, _, _, .three⟩)
  case h_3 => exact .inr (.inl ⟨_, _, _, .four⟩)
  case h_4 => exact .inr (.inl ⟨_, _, _, .sixOfTwo⟩)
  case h_5 => exact .inr (.inl ⟨_, _, _, .five⟩)
  case h_6 => exact .inr (.inl ⟨_, _, _, .six⟩)
  case h_7 => exact .inr (.inr ⟨_, rfl⟩)
  case h_8 => exact .inr (.inr ⟨_, rfl⟩)

section Row

variable {ds front back : List Nat} {x y : Int} {t c : Option Nat} (row : SelectRow ds x t c front y back)
include row

/-- A row is the layout of its digits, its exponent and the symbols after it (R187). -/
theorem SelectRow.select_eq (hd : ∀ d ∈ ds, d ≤ 9) :
    select ds x t c = layout (front.map some ++ symOfExp y :: back.map some) := by
  cases row <;> simp_all [select, symOfDigit_of_le]

/-- The digits of the bands denote what the operand's digits denote (R187, R193). -/
theorem SelectRow.value_eq : decimalValue (digitsNumber front) y = decimalValue (digitsNumber ds) x := by
  cases row with
  | three => rfl
  | four => rfl
  | @sixOfTwo a b t c x =>
    rw [show digitsNumber [a, b, 0] = digitsNumber [a, b] * 10 ^ 1 from Nat.mul_comm 10 _]
    exact decimalValue_trailingZeros _ 1 x
  | five => rfl
  | six => rfl

/-- A row has a legal band count, and every symbol the role of its slot (R114, R192). -/
theorem SelectRow.roles {e : Nat} (he : SlotRole.exponent.admits e) (hd : ∀ d ∈ ds, d ≤ 9) (hfirst : 1 ≤ ds.getD 0 0)
    (ht : ∀ s, t = some s → SlotRole.tolerance.admits s) (hc : ∀ s, c = some s → SlotRole.tcr.admits s) :
    (front ++ e :: back).length ∈ Config.bandCounts ∧
      List.Forall₂ SlotRole.admits (slotRoles (front ++ e :: back).length) (front ++ e :: back) := by
  cases row <;> simp_all [slotRoles, SlotRole.admits]

end Row

/-- The exponent symbol of `x` reads back as `x` (R103, R108). -/
theorem symOfExp_exponent {x : Int} {e : Nat} (h : symOfExp x = some e) :
    SlotRole.exponent.admits e ∧ digexp e = some x := by
  have hx : -3 ≤ x ∧ x ≤ 9 := by
    unfold symOfExp at h
    split_ifs at h <;> omega
  obtain ⟨e', he, hadm, hdig⟩ := symOfExp_some hx.1 hx.2
  cases h.symm.trans he
  exact ⟨hadm, hdig⟩

/-- A sequence is legal when each symbol has the role of its slot (R110, R111). -/
theorem legal_of_roles {seq : List Nat} (h : List.Forall₂ SlotRole.admits (slotRoles seq.length) seq) :
    ∀ i, i < seq.length → legal (codeAt seq i) i seq.length = true := by
  intro i hi
  have hi' : i < (slotRoles seq.length).length := by rwa [h.length_eq]
  rw [legal_iff_admits (List.getElem?_eq_getElem hi'), codeAt, List.getD_eq_getElem _ _ hi]
  exact h.get hi' hi

/-! ### DETERMINE by the selection (R190, R192) -/

section Determine

variable {s : State} {ds : List Nat} {x : Int} {T C : Option Nat}
  (hn : normalize s.snap.resCoeff s.snap.resExp = some (ds, x)) (hT : s.snap.TolIs T) (hC : s.snap.TcrIs C)
include hn hT hC

/-- When no check fails, the outcome of DETERMINE is its layout (R190). -/
theorem outcomeOf_determine : outcomeOf .determine s = resolveLayout ds x T C := by
  obtain ⟨ht, rfl⟩ := (tolIs_iff _ _).mp hT
  obtain ⟨hc, rfl⟩ := (tcrIs_iff _ _).mp hC
  rcases determineOutcome_cases s.snap with ⟨hne, -⟩ | ⟨ds', x', hn', -, -, h⟩
  · exact absurd (by simp [stepErrors, ht, hc, hn]) hne
  · cases hn'.symm.trans hn
    exact h

/-- Every sequence `select` gives passes the constructor (R192). -/
theorem select_legal {seq : List Nat} (hsel : select ds x T C = .ok seq) :
    seq.length ∈ Config.bandCounts ∧ ∀ i, i < seq.length → legal (codeAt seq i) i seq.length = true := by
  obtain ⟨-, -, -, hd, hdigits⟩ := normalFormIsExact _ _ _ _ hn
  rcases select_cases ds x T C with ⟨-, -, hone⟩ | ⟨front, y, back, row⟩ | ⟨cause, herr⟩
  · cases hone.symm.trans hsel
    exact ⟨by decide, legal_of_roles (.cons rfl .nil)⟩
  · obtain ⟨e, he, rfl⟩ := layout_eq_ok_iff.mp ((row.select_eq hd).symm.trans hsel)
    have hfirst : 1 ≤ ds.getD 0 0 := by
      rcases hdigits with ⟨-, rfl, -⟩ | ⟨-, -, h⟩
      · cases row
      · exact Nat.one_le_iff_ne_zero.mpr h
    have hroles := row.roles (symOfExp_exponent he).1 hd hfirst (fun _ h => Operands.TolIs.admits (h ▸ hT))
      (fun _ h => Operands.TcrIs.admits (h ▸ hC))
    exact ⟨hroles.1, legal_of_roles hroles.2⟩
  · cases herr.symm.trans hsel

/-- DETERMINE commits the sequence the selection gives (R190, R192). -/
theorem exec_determine_of_select {seq : List Nat} (hsel : select ds x T C = .ok seq) :
    exec .determine s = .next { s with
      resistor := resistorOf seq.length seq
      status := { s.status with ok := true, busy := false }, pend := none } := by
  obtain ⟨hlen, hlegal⟩ := select_legal hn hT hC hsel
  have hout : outcomeOf .determine s = constructOutcome seq.length seq := by
    rw [outcomeOf_determine hn hT hC, resolveLayout, hsel]
  exact exec_of_ok (hout.trans (constructOutcome_ok hlen hlegal))

/-- DETERMINE reports the one error the selection gives (R190). -/
theorem exec_determine_of_select_error {cause : Cause} (hsel : select ds x T C = .error cause) :
    exec .determine s = .next { s with
      status := { s.status.setFlag cause with errPos := 0, ok := false, busy := false }, pend := none } := by
  have hout : outcomeOf .determine s = .err [cause] 0 {} := by
    rw [outcomeOf_determine hn hT hC, resolveLayout, hsel]
  exact exec_of_err hout

/-- DETERMINE commits a row whose exponent has a symbol (R187). -/
theorem exec_determine_of_row {front back : List Nat} {y : Int} {e : Nat} (row : SelectRow ds x T C front y back)
    (he : symOfExp y = some e) :
    exec .determine s = .next { s with
      resistor := resistorOf (front ++ e :: back).length (front ++ e :: back)
      status := { s.status with ok := true, busy := false }, pend := none } := by
  obtain ⟨-, -, -, hd, -⟩ := normalFormIsExact _ _ _ _ hn
  exact exec_determine_of_select hn hT hC ((row.select_eq hd).trans (layout_eq_ok_iff.mpr ⟨e, he, rfl⟩))

end Determine

/-- Settles O55: each row of digits, tolerance and TCR by its selection. -/
theorem determineFollowsSelectionTable : Obligations.DetermineFollowsSelectionTable := by
  intro s ds x T C hn hT hC commits c4
  obtain ⟨-, hlow, hhigh, hd, -⟩ := normalFormIsExact _ _ _ _ hn
  obtain ⟨e, he, -⟩ := symOfExp_some hlow hhigh
  rcases normalize_digits hn with ⟨-, rfl, rfl⟩ | ⟨-, ⟨a, b, rfl, -⟩ | ⟨a, b, d, rfl, -⟩⟩
  · rcases T with _ | t <;> rcases C with _ | c
    · exact exec_determine_of_select hn hT hC rfl
    · exact exec_determine_of_select_error hn hT hC rfl
    · exact exec_determine_of_select_error hn hT hC rfl
    · exact exec_determine_of_select_error hn hT hC rfl
  · rcases T with _ | t <;> rcases C with _ | c
    · exact ⟨e, he, exec_determine_of_row hn hT hC .three he⟩
    · exact exec_determine_of_select_error hn hT hC rfl
    · exact ⟨e, he, exec_determine_of_row hn hT hC .four he⟩
    · refine ⟨fun hx => ?_, fun hx => ?_⟩
      · obtain ⟨e', he', -⟩ := symOfExp_some (x := x - 1) (by omega) (by omega)
        exact ⟨e', he', exec_determine_of_row hn hT hC .sixOfTwo he'⟩
      · subst hx
        exact exec_determine_of_select_error hn hT hC
          ((SelectRow.sixOfTwo.select_eq hd).trans (layout_none [a, b, 0] [t, c]))
  · rcases T with _ | t <;> rcases C with _ | c
    · exact exec_determine_of_select_error hn hT hC rfl
    · exact exec_determine_of_select_error hn hT hC rfl
    · exact ⟨e, he, exec_determine_of_row hn hT hC .five he⟩
    · exact ⟨e, he, exec_determine_of_row hn hT hC .six he⟩

/-! ### The committed resistance (R193) -/

theorem resistorOf_count {L : Nat} (seq : List Nat) (hL : L ≤ 6) : (resistorOf L seq).count.toNat = L :=
  toNat_ofNat_of_lt (by omega)

/-- A band below the count of a constructed resistor is its symbol. -/
theorem resistorOf_band_eq {L i sym : Nat} {seq : List Nat} (hL : L ≤ 6) (hi : i < L) (hcode : codeAt seq i = sym)
    (hsym : sym < 16) : (resistorOf L seq).band i = sym := by
  rw [resistorOf_band hL, if_pos hi, hcode, Nat.mod_eq_of_lt hsym]

/-- A resistor of 3 or 4 bands decodes to its two digits and its exponent (R162, R163). -/
theorem Specs.DecodedFrom.twoDigits_eq {p : Specs} {L a b e : Nat} {rest : List Nat} {y : Int} (hL : L = 3 ∨ L = 4)
    (ha : a ≤ 9) (hb : b ≤ 9) (he : symOfExp y = some e) (h : p.DecodedFrom (resistorOf L (a :: b :: e :: rest))) :
    p.ohmM = digitsNumber [a, b] ∧ p.ohmE = y := by
  obtain ⟨hadm, hexp⟩ := symOfExp_exponent he
  have he16 : e < 16 := (SlotRole.admits_lt hadm).trans (by decide)
  have h6 : L ≤ 6 := by omega
  obtain ⟨hM, hE⟩ := h.twoDigits (by rwa [resistorOf_count _ h6])
  rw [resistorOf_band_eq (sym := a) h6 (by omega) rfl (by omega),
    resistorOf_band_eq (sym := b) h6 (by omega) rfl (by omega)] at hM
  rw [resistorOf_band_eq (sym := e) h6 (by omega) rfl he16] at hE
  exact ⟨hM.trans (digitsNumber_two a b).symm, Option.some.inj (hE.symm.trans hexp)⟩

/-- A resistor of 5 or 6 bands decodes to its three digits and its exponent (R164, R165). -/
theorem Specs.DecodedFrom.threeDigits_eq {p : Specs} {L a b d e : Nat} {rest : List Nat} {y : Int} (hL : L = 5 ∨ L = 6)
    (ha : a ≤ 9) (hb : b ≤ 9) (hd : d ≤ 9) (he : symOfExp y = some e)
    (h : p.DecodedFrom (resistorOf L (a :: b :: d :: e :: rest))) :
    p.ohmM = digitsNumber [a, b, d] ∧ p.ohmE = y := by
  obtain ⟨hadm, hexp⟩ := symOfExp_exponent he
  have he16 : e < 16 := (SlotRole.admits_lt hadm).trans (by decide)
  have h6 : L ≤ 6 := by omega
  obtain ⟨hM, hE⟩ := h.threeDigits (by rwa [resistorOf_count _ h6])
  rw [resistorOf_band_eq (sym := a) h6 (by omega) rfl (by omega),
    resistorOf_band_eq (sym := b) h6 (by omega) rfl (by omega),
    resistorOf_band_eq (sym := d) h6 (by omega) rfl (by omega)] at hM
  rw [resistorOf_band_eq (sym := e) h6 (by omega) rfl he16] at hE
  exact ⟨hM.trans (digitsNumber_three a b d).symm, Option.some.inj (hE.symm.trans hexp)⟩

/-- The resistor of a row decodes to the row's digits and exponent. -/
theorem SelectRow.decoded {ds front back : List Nat} {x y : Int} {t c : Option Nat} {e : Nat} {p : Specs}
    (row : SelectRow ds x t c front y back) (he : symOfExp y = some e) (hd : ∀ d ∈ ds, d ≤ 9)
    (h : p.DecodedFrom (resistorOf (front ++ e :: back).length (front ++ e :: back))) :
    p.ohmM = digitsNumber front ∧ p.ohmE = y := by
  cases row with
  | three => exact h.twoDigits_eq (.inl rfl) (hd _ (by simp)) (hd _ (by simp)) he
  | four => exact h.twoDigits_eq (.inr rfl) (hd _ (by simp)) (hd _ (by simp)) he
  | sixOfTwo => exact h.threeDigits_eq (.inr rfl) (hd _ (by simp)) (hd _ (by simp)) (by decide) he
  | five => exact h.threeDigits_eq (.inl rfl) (hd _ (by simp)) (hd _ (by simp)) (hd _ (by simp)) he
  | six => exact h.threeDigits_eq (.inr rfl) (hd _ (by simp)) (hd _ (by simp)) (hd _ (by simp)) he

/-- A selected sequence decodes to the number its operand's digits denote (R193). -/
theorem select_value {ds : List Nat} {x : Int} {t c : Option Nat} {seq : List Nat} {p : Specs}
    (hsel : select ds x t c = .ok seq) (hd : ∀ d ∈ ds, d ≤ 9) (h : p.DecodedFrom (resistorOf seq.length seq)) :
    decimalValue p.ohmM p.ohmE = decimalValue (digitsNumber ds) x := by
  rcases select_cases ds x t c with ⟨rfl, rfl, hone⟩ | ⟨front, y, back, row⟩ | ⟨cause, herr⟩
  · cases hone.symm.trans hsel
    obtain ⟨hM, hE⟩ := h.one rfl
    rw [hM, hE]
    rfl
  · obtain ⟨e, he, rfl⟩ := layout_eq_ok_iff.mp ((row.select_eq hd).symm.trans hsel)
    obtain ⟨hM, hE⟩ := row.decoded he hd h
    rw [hM, hE, row.value_eq]
  · cases herr.symm.trans hsel

/-- The fields of SPEC_OHM hold the decoded resistance (R42). -/
theorem specView_ohm_fields {r : Resistor} {p : Specs} (hp : specs r = some p) (hfit : p.Fits) :
    ((specView specOhmWord r).extractLsb 9 0).toNat = p.ohmM ∧
      ((specView specOhmWord r).extractLsb 23 16).toInt = p.ohmE := by
  obtain ⟨-, -, hE, -, hM⟩ := specOhmWord_fields p
  have hM9 := hfit.ohmM
  have hEr := hfit.ohmE
  rw [specView_some _ hp, hE, hM]
  exact ⟨toNat_ofNat_of_lt (by omega), enc_toInt (by omega) (by omega)⟩

/-- Settles O56: DETERMINE succeeds only by a selected sequence, whose resistor decodes to the normal form. -/
theorem determineRoundTrip : Obligations.DetermineRoundTrip := by
  intro s t hexec hok
  rcases determineOutcome_cases s.snap with ⟨-, h⟩ | ⟨ds, x, hn, ht, hc, -⟩
  · have hout : outcomeOf .determine s = _ := h
    rw [exec_eq, hout] at hexec
    cases hexec
    cases hok
  · have hT := (tolIs_iff s.snap _).mpr ⟨ht, rfl⟩
    have hC := (tcrIs_iff s.snap _).mpr ⟨hc, rfl⟩
    obtain ⟨hvalue, -, -, hd, -⟩ := normalFormIsExact _ _ _ _ hn
    cases hsel : select ds x (checkTol s.snap).sym (checkTcr s.snap).sym with
    | error cause =>
      cases (exec_determine_of_select_error hn hT hC hsel).symm.trans hexec
      cases hok
    | ok seq =>
      cases (exec_determine_of_select hn hT hC hsel).symm.trans hexec
      obtain ⟨hlen, hlegal⟩ := select_legal hn hT hC hsel
      obtain ⟨p, hp, hfit, hdec⟩ := specs_of_legal (resistorOf_legal hlen hlegal) rfl
      obtain ⟨hM, hE⟩ := specView_ohm_fields hp hfit
      rw [busRead_specOhm]
      calc _ = decimalValue p.ohmM p.ohmE := congrArg₂ decimalValue hM hE
        _ = decimalValue (digitsNumber ds) x := select_value hsel hd hdec
        _ = _ := hvalue

end Sys2Proof.Machine
end

section
/-! SUPPORT and proofs. WITH_COLOR (R220): the band it replaces, why no other position can fail, and its result. -/

namespace Sys2Proof.Machine

/-! ### A resistor and one replaced band (R40) -/

/-- R with the band at `pos` replaced, everything else kept: what WITH_COLOR commits (R220). -/
def Resistor.setBand (r : Resistor) (pos color : Nat) : Resistor :=
  { r with bands := r.bands.setIfInBounds pos (BitVec.ofNat 4 color) }

theorem Resistor.band_eq (r : Resistor) {i : Nat} (hi : i < 6) : r.band i = r.bands[i].toNat := by
  rw [Resistor.band, Vector.getElem?_eq_getElem hi, Option.getD_some]

theorem Resistor.band_lt (r : Resistor) (i : Nat) : r.band i < 16 := BitVec.isLt _

theorem Resistor.ext_band {r q : Resistor} (hvalid : r.valid = q.valid) (hcount : r.count = q.count)
    (hband : ∀ i, i < 6 → r.band i = q.band i) : r = q := by
  rw [Resistor.mk.injEq]
  refine ⟨hvalid, hcount, Vector.ext fun i hi => BitVec.eq_of_toNat_eq ?_⟩
  rw [← r.band_eq hi, ← q.band_eq hi, hband i hi]

theorem Resistor.band_setBand (r : Resistor) {pos color i : Nat} (hcolor : color < 16) (hi : i < 6) :
    (r.setBand pos color).band i = if i = pos then color else r.band i := by
  rw [Resistor.band_eq _ hi, Resistor.band_eq r hi, Resistor.setBand, Vector.getElem_setIfInBounds]
  by_cases h : i = pos
  · rw [if_pos h.symm, if_pos h, toNat_ofNat_of_lt hcolor]
  · rw [if_neg (Ne.symm h), if_neg h]

/-- Replacing a band with its own colour is no change (R222). -/
theorem Resistor.setBand_self (r : Resistor) (pos : Nat) : r.setBand pos (r.band pos) = r := by
  refine Resistor.ext_band rfl rfl fun i hi => ?_
  rw [Resistor.band_setBand r (r.band_lt pos) hi]
  split
  case isTrue h => rw [h]
  case isFalse => rfl

/-! ### The checks before the re-validation (R220) -/

theorem withColorOutcome_of_invalid {r : Resistor} (hv : r.valid = false) (color pos : Nat) :
    withColorOutcome r color pos = .err [.eNores] 0 {} := by simp [withColorOutcome, hv]

theorem withColorOutcome_of_beyond {r : Resistor} {pos : Nat} (hv : r.valid = true) (hpos : r.count.toNat ≤ pos)
    (color : Nat) : withColorOutcome r color pos = .err [.eBounds] 0 {} := by simp [withColorOutcome, hv, hpos]

theorem withColorOutcome_of_below {r : Resistor} {pos : Nat} (hv : r.valid = true) (hpos : pos < r.count.toNat)
    (color : Nat) : withColorOutcome r color pos = constructOutcome r.count.toNat (r.codes.set pos color) := by
  simp [withColorOutcome, hv, hpos]

/-! ### The re-validated sequence (R220) -/

section Replaced

variable {r : Resistor} {color pos : Nat} (h : r.Legal) (hv : r.valid = true) (hpos : pos < r.count.toNat)
include h hv

theorem Resistor.Legal.count_le : r.count.toNat ≤ 6 := by
  have hmem := h.count_mem hv
  simp at hmem
  omega

theorem Resistor.Legal.band_legal {i : Nat} (hi : i < r.count.toNat) : legal (r.band i) i r.count.toNat = true := by
  rcases h with rfl | ⟨-, -, hlegal, -⟩
  · cases hv
  · exact hlegal i hi

theorem Resistor.Legal.band_beyond {i : Nat} (hi : r.count.toNat ≤ i) : r.band i = 0 := by
  rcases h with rfl | ⟨-, -, -, hzero⟩
  · cases hv
  · exact hzero i hi

include hpos

/-- The replaced position is the only one that can fail the re-validation: the other bands are those of a legal R. -/
theorem legal_codes_set_iff {i : Nat} (hi : i < r.count.toNat) :
    legal (codeAt (r.codes.set pos color) i) i r.count.toNat = true ↔
      (i = pos → legal color pos r.count.toNat = true) := by
  have h6 := h.count_le hv
  rw [codeAt_codes_set r (by omega) (by omega)]
  by_cases hip : i = pos
  · simp [hip]
  · simp [hip, h.band_legal hv hi]

/-- The constructor of the replaced sequence gives back R with the one band replaced. -/
theorem resistorOf_codes_set (hcolor : color < 16) :
    resistorOf r.count.toNat (r.codes.set pos color) = r.setBand pos color := by
  have h6 := h.count_le hv
  refine Resistor.ext_band hv.symm (BitVec.eq_of_toNat_eq (resistorOf_count _ h6)) fun i hi => ?_
  rw [Resistor.band_setBand r hcolor hi]
  by_cases hic : i < r.count.toNat
  · have hcode := codeAt_codes_set r (color := color) (pos := pos) (by omega) hi
    refine resistorOf_band_eq h6 hic hcode ?_
    split
    · exact hcolor
    · exact r.band_lt i
  · rw [resistorOf_band h6, if_neg hic, if_neg (by omega), h.band_beyond hv (by omega)]

/-- A colour that is legal at the position replaces the band (R220, the Ok arm). -/
theorem withColorOutcome_of_legal (hlegal : legal color pos r.count.toNat = true) :
    withColorOutcome r color pos = .ok { resistor := some (r.setBand pos color) } := by
  have hcolor := legal_lt hlegal
  rw [withColorOutcome_of_below hv hpos,
    constructOutcome_ok (h.count_mem hv) fun i hi => (legal_codes_set_iff h hv hpos hi).mpr fun _ => hlegal,
    resistorOf_codes_set h hv hpos (by omega)]

/-- A colour that is not legal at the position fails there (R220, R142). -/
theorem withColorOutcome_of_illegal (hbad : legal color pos r.count.toNat = false) :
    withColorOutcome r color pos = .err [.eColor] pos {} := by
  have hnot : ¬ legal color pos r.count.toNat = true := Bool.eq_false_iff.mp hbad
  rw [withColorOutcome_of_below hv hpos]
  rcases constructOutcome_cases r.count.toNat (r.codes.set pos color) with
    ⟨hcount, -⟩ | ⟨-, i, hi, hfail, -, heq⟩ | ⟨-, hall, -⟩
  · exact absurd (h.count_mem hv) hcount
  · have hip : i = pos := by
      by_contra hne
      exact Bool.eq_false_iff.mp hfail ((legal_codes_set_iff h hv hpos hi).mpr fun heq => absurd heq hne)
    rw [heq, hip]
  · exact absurd ((legal_codes_set_iff h hv hpos hpos).mp (hall pos hpos) rfl) hnot

end Replaced

/-! ### The command (R221) -/

/-- Settles O48: the checks of R220 in their order, then the re-validation at the replaced position. -/
theorem withColorResult : Obligations.WithColorResult := by
  intro s color pos h
  refine ⟨fun hv => ?_, fun hv hpos => ?_, fun hv hpos hbad => ?_, fun hv hpos hlegal => ?_⟩
  · exact exec_of_err (i := .withColor color pos) (withColorOutcome_of_invalid hv color pos)
  · exact exec_of_err (i := .withColor color pos) (withColorOutcome_of_beyond hv hpos color)
  · exact exec_of_err (i := .withColor color pos) (withColorOutcome_of_illegal h hv hpos hbad)
  · exact exec_of_ok (i := .withColor color pos) (withColorOutcome_of_legal h hv hpos hlegal)

/-- Settles O49: a band of a legal R is legal where it stands, and setting it to itself changes nothing. -/
theorem withOwnColorChangesNothing : Obligations.WithOwnColorChangesNothing := by
  intro s i h hv hi
  have hout := withColorOutcome_of_legal h hv hi (h.band_legal hv hi)
  rw [Resistor.setBand_self] at hout
  exact exec_of_ok (i := .withColor (s.resistor.band i) i) hout

end Sys2Proof.Machine
end

section
/-! PROOFS. No command and no clock edge stops the machine (R233, R247, R278). -/

namespace Sys2Proof.Machine

/-- Every clock edge answers a next state: the one that commits a command does because every command word, an illegal
one included, is one commit (R232, R233). -/
theorem step_eq_next (s : State) : ∃ t, step s = .next t := by
  rcases step_cases s with ⟨-, hreset⟩ | ⟨-, -, hidle⟩ | ⟨-, p, -, -, hcommit⟩ | ⟨-, p, -, -, hcountdown⟩
  · exact ⟨_, hreset⟩
  · exact ⟨_, hidle⟩
  · exact ⟨_, hcommit.trans (execWord_eq_commit p.word _)⟩
  · exact ⟨_, hcountdown⟩

/-- Settles O11: a command is one commit of its outcome, and each kind of clock edge answers a next state. -/
theorem nothingStopsTheMachine : Obligations.NothingStopsTheMachine :=
  ⟨fun i s => ⟨_, exec_eq i s⟩, step_eq_next⟩

end Sys2Proof.Machine
end

section
/-! PROOFS. What a commit reports and leaves (R240 to R244), and the idle engine (R255, R278). -/

namespace Sys2Proof.Machine

/-! ### The idle engine (R255, R278) -/

/-- Settles O14: with nothing pending the edge is the host's access alone, which without a write is the read. -/
theorem idleEngineKeepsItsState : Obligations.IdleEngineKeepsItsState := by
  intro s h hb hr hw
  have hport : portWrite s.host.signals s = s := by simp [portWrite, hw]
  rw [step_idle hr (h.pend_none hb), hostEdge, hport]
  rfl

/-! ### A failing command has no partial effect (R244) -/

theorem wordOutcome_of_error {w : Word} {d : DecodeError} (h : decode w = .error d) (s : State) :
    wordOutcome w s = .err [.eCmd] 0 {} := by rw [wordOutcome, h]

/-- The result registers an error of a command word clears: NORM_OUT by NORMALIZE, Q_OUT by a lookup command (R244);
an illegal word clears none (R232). -/
theorem wordOutcome_err_clears {w : Word} {s : State} {cs : List Cause} {pos : Nat} {e : Effects}
    (h : wordOutcome w s = .err cs pos e) :
    e.normOut = (if (decode w).toOption = some .normalize then some 0 else none) ∧
      e.qOut = (if (decode w).toOption.any isLookupCommand = true then some 0 else none) := by
  cases hd : decode w with
  | ok i =>
    rw [wordOutcome, hd] at h
    obtain ⟨-, -, hnorm, hq⟩ := outcomeOf_err h
    refine ⟨hnorm.trans ?_, hq⟩
    by_cases hi : i = .normalize <;> simp [hi, Except.toOption]
  | error d =>
    cases (wordOutcome_of_error hd s).symm.trans h
    simp [Except.toOption]

/-- A commit that ends with OK 0 is one of an error (R50). -/
theorem State.commit_not_ok {o : CmdOutcome} {s : State} (h : (s.commit o).status.ok = false) :
    ∃ cs pos e, o = .err cs pos e := by
  cases o with
  | ok e => cases h
  | err cs pos e => exact ⟨cs, pos, e, rfl⟩

/-- Settles O34: a failing commit is `raise`, whose effects are the registers the command clears. -/
theorem failingCommandsHaveNoPartialEffect : Obligations.FailingCommandsHaveNoPartialEffect := by
  intro w s t h hok
  rw [execWord_eq_commit] at h
  cases h
  have hbusywr := State.commit_eBusywr (o := wordOutcome w s) (fun _ _ _ ho => (wordOutcome_err ho).2) s
  obtain ⟨cs, pos, e, ho⟩ := State.commit_not_ok hok
  obtain ⟨hnorm, hq⟩ := wordOutcome_err_clears ho
  rw [← hbusywr, ho, State.commit_err, State.raise, hnorm, hq]
  congr 1 <;> split <;> rfl

/-! ### The causes of each command's errors (R241, R243) -/

/-- The constructor's error on a legal band count is E_COLOR (R140). -/
theorem constructOutcome_err_of_count {L : Nat} {seq : List Nat} {cs : List Cause} {pos : Nat} {e : Effects}
    (hL : L ∈ Config.bandCounts) (h : constructOutcome L seq = .err cs pos e) : cs = [.eColor] := by
  rcases constructOutcome_cases L seq with ⟨hcount, -⟩ | ⟨-, i, -, -, -, h'⟩ | ⟨-, -, h'⟩
  · exact absurd hL hcount
  · cases h'.symm.trans h
    rfl
  · cases h'.symm.trans h

theorem lookupOutcome_err {v : Option (BitVec 16)} {cs : List Cause} {pos : Nat} {e : Effects}
    (h : lookupOutcome v = .err cs pos e) : cs = [.eUndef] := by
  rcases lookupOutcome_cases v with ⟨q, -, h'⟩ | ⟨-, h'⟩ <;> cases h'.symm.trans h
  rfl

theorem normalizeOutcome_err {o : Operands} {cs : List Cause} {pos : Nat} {e : Effects}
    (h : normalizeOutcome o = .err cs pos e) : cs = [.eNotrep] := by
  rcases normalizeOutcome_cases o with ⟨ds, x, -, h'⟩ | ⟨-, h'⟩ <;> cases h'.symm.trans h
  rfl

/-- WITH_COLOR reports one cause; E_COUNT is not among them while R is legal (R220, R241). -/
theorem withColorOutcome_err {r : Resistor} {color pos errPos : Nat} {cs : List Cause} {e : Effects}
    (h : withColorOutcome r color pos = .err cs errPos e) :
    ∃ c, cs = [c] ∧ (r.Legal → c ∈ commandFlags (.withColor color pos)) := by
  rcases withColorOutcome_cases r color pos with ⟨-, h'⟩ | ⟨-, -, h'⟩ | ⟨hv, -, h'⟩ <;> rw [h'] at h
  · cases h
    exact ⟨.eNores, rfl, fun _ => by simp [commandFlags]⟩
  · cases h
    exact ⟨.eBounds, rfl, fun _ => by simp [commandFlags]⟩
  · rcases constructOutcome_err h with ⟨rfl | rfl, -⟩
    · exact ⟨.eCount, rfl, fun hlegal => by cases constructOutcome_err_of_count (hlegal.count_mem hv) h⟩
    · exact ⟨.eColor, rfl, fun _ => by simp [commandFlags]⟩

/-- The failures of DETERMINE's steps 1 and 2 (R190, R191). -/
theorem mem_stepErrors {c : Cause} {tol tcr : Checked} {norm : Option (List Nat × Int)}
    (h : c ∈ stepErrors tol tcr norm) : c ∈ [Cause.eTol, Cause.eTcr, Cause.eNotrep] := by
  simp only [stepErrors, List.mem_append, List.mem_ite_nil_right, List.mem_singleton] at h
  rcases h with (⟨-, rfl⟩ | ⟨-, rfl⟩) | ⟨-, rfl⟩ <;> simp

/-- DETERMINE reports failures of its checks and of the normalisation, or the one error of the selection; the sequence
it selects never fails the constructor (R190 to R192). -/
theorem outcomeOf_determine_err {s : State} {cs : List Cause} {pos : Nat} {e : Effects}
    (h : outcomeOf .determine s = .err cs pos e) :
    (∃ c, cs = [c] ∧ c ∈ commandFlags .determine) ∨ ∀ c ∈ cs, c ∈ [Cause.eTol, Cause.eTcr, Cause.eNotrep] := by
  rcases determineOutcome_cases s.snap with ⟨-, h'⟩ | ⟨ds, x, hn, ht, hc, -⟩
  · cases h'.symm.trans h
    exact .inr fun c hmem => mem_stepErrors hmem
  · have hT := (tolIs_iff s.snap _).mpr ⟨ht, rfl⟩
    have hC := (tcrIs_iff s.snap _).mpr ⟨hc, rfl⟩
    rw [outcomeOf_determine hn hT hC, resolveLayout] at h
    cases hsel : select ds x (checkTol s.snap).sym (checkTcr s.snap).sym with
    | ok seq =>
      obtain ⟨hlen, hlegal⟩ := select_legal hn hT hC hsel
      rw [hsel] at h
      cases (constructOutcome_ok hlen hlegal).symm.trans h
    | error cause =>
      rw [hsel] at h
      cases h
      refine .inl ⟨cause, rfl, ?_⟩
      rcases select_err hsel with rfl | rfl | rfl <;> simp [commandFlags]

/-- An error of a command has one cause, of its row of R241 while R is legal, or is the composite error of DETERMINE
(R243). -/
theorem outcomeOf_err_causes {i : Instr} {s : State} {cs : List Cause} {pos : Nat} {e : Effects}
    (h : outcomeOf i s = .err cs pos e) :
    (∃ c, cs = [c] ∧ (s.resistor.Legal → c ∈ commandFlags i)) ∨
      (i = .determine ∧ ∀ c ∈ cs, c ∈ [Cause.eTol, Cause.eTcr, Cause.eNotrep]) := by
  cases i
  case nop => cases h
  case lutMatrix => cases h
  case construct =>
    rcases constructOutcome_err h with ⟨rfl | rfl, -⟩
    · exact .inl ⟨.eCount, rfl, fun _ => by simp [commandFlags]⟩
    · exact .inl ⟨.eColor, rfl, fun _ => by simp [commandFlags]⟩
  case determine =>
    rcases outcomeOf_determine_err h with ⟨c, hcs, hc⟩ | hcs
    · exact .inl ⟨c, hcs, fun _ => hc⟩
    · exact .inr ⟨rfl, hcs⟩
  case withColor => exact .inl (withColorOutcome_err h)
  case normalize => exact .inl ⟨.eNotrep, normalizeOutcome_err h, fun _ => List.mem_singleton_self _⟩
  all_goals exact .inl ⟨.eUndef, lookupOutcome_err h, fun _ => List.mem_singleton_self _⟩

/-! ### The flags after a commit (R241, R243) -/

/-- From a state without per-command flags, a flag a command sets is a cause of its error (R50). -/
theorem exec_flag_cause {i : Instr} {s t : State} {c : Cause} (hf : s.status.NoFlags) (h : exec i s = .next t)
    (hc : c ≠ .eBusywr) (hflag : t.status.flag c = true) : ∃ cs pos e, outcomeOf i s = .err cs pos e ∧ c ∈ cs := by
  rw [exec_eq] at h
  cases h
  cases ho : outcomeOf i s with
  | ok e => simp [ho, hf c hc] at hflag
  | err cs pos e => exact ⟨cs, pos, e, rfl, by simpa [ho, hf c hc] using hflag⟩

/-- Settles O35: each flag set is a cause of the command's error; an illegal word has the one cause E_CMD. -/
theorem commandFlagMatrix : Obligations.CommandFlagMatrix := by
  refine ⟨fun i s t c hlegal hf h hc hflag => ?_, fun w d s t c hf hd h hc => ?_⟩
  · obtain ⟨cs, pos, e, ho, hmem⟩ := exec_flag_cause hf h hc hflag
    rcases outcomeOf_err_causes ho with ⟨c', rfl, hrow⟩ | ⟨rfl, hcs⟩
    · cases List.mem_singleton.mp hmem
      exact hrow hlegal
    · exact List.mem_append_left [Cause.eMisstol, Cause.eNolayout] (hcs c hmem)
  · rw [execWord_eq_commit, wordOutcome_of_error hd] at h
    cases h
    simp [hf c hc]

/-- Settles O36: two different causes of one error make it the composite error of DETERMINE. -/
theorem onlyDetermineIsComposite : Obligations.OnlyDetermineIsComposite := by
  intro i s t c d hf h hc hd hne hflagc hflagd
  obtain ⟨cs, pos, e, ho, hmemc⟩ := exec_flag_cause hf h hc hflagc
  obtain ⟨cs', pos', e', ho', hmemd⟩ := exec_flag_cause hf h hd hflagd
  cases ho.symm.trans ho'
  rcases outcomeOf_err_causes ho with ⟨a, rfl, -⟩ | ⟨hi, hcs⟩
  · exact absurd ((List.mem_singleton.mp hmemc).trans (List.mem_singleton.mp hmemd).symm) hne
  · exact ⟨hi, hcs c hmemc⟩

end Sys2Proof.Machine
end
